-- ==== Sys2Proof/Word.lean ====
section
/-! DEFINITION. The words of the block: every value is an unsigned 32-bit integer unless its width is stated
(00_scope.md R12). -/

namespace Sys2Proof

/-- A `u32` (R12): bit 0 is the least significant bit. -/
abbrev Word := BitVec 32

/-- One character byte, the transport's unit (R172, R174). -/
abbrev Byte := BitVec 8

/-- A byte offset in the 4096-byte register window (R60). -/
abbrev Offset := BitVec 12

/-- The two low bits of an offset, `offset[1:0]`, which the address decode ignores (R62). -/
abbrev Lane := BitVec 2

end Sys2Proof
end

