-- ==== Sys2Proof/Syntax.lean ====
section
/-! DEFINITION. The operations of the block: one constructor of `Instr` for each row of spec/opcode_table.json
(30_encoding.md R80, R86), and the closed enumerations its operands range over. -/

namespace Sys2Proof

/-- The closed register enumeration of 10_state.md R21, in index order 0 to 20. -/
inductive Reg where
  /-- index 0, offset 0x00: LINCR1, "Control-1" (R22). -/
  | lincr1
  /-- index 1, offset 0x04: LINIER, "Interrupt-Enable" (R23). -/
  | linier
  /-- index 2, offset 0x08: LINSR, "LIN Status" (R24). -/
  | linsr
  /-- index 3, offset 0x0C: LINESR, "LIN Error Status" (R25). -/
  | linesr
  /-- index 4, offset 0x10: UARTCR, "UART-Control" (R26). -/
  | uartcr
  /-- index 5, offset 0x14: UARTSR, "UART-Status" (R27). -/
  | uartsr
  /-- index 6, offset 0x18: LINTCSR, "Timeout/Control-Status" (R28). -/
  | lintcsr
  /-- index 7, offset 0x1C: LINOCR, "Output-Compare" (R29). -/
  | linocr
  /-- index 8, offset 0x20: LINTOCR, "Timeout-Control" (R30). -/
  | lintocr
  /-- index 9, offset 0x24: LINFBRR, "Fractional Baud Rate" (R31). -/
  | linfbrr
  /-- index 10, offset 0x28: LINIBRR, "Integer Baud Rate" (R32). -/
  | linibrr
  /-- index 11, offset 0x2C: LINCFR, "Checksum Field" (R33). -/
  | lincfr
  /-- index 12, offset 0x30: LINCR2, "Control-2" (R34). -/
  | lincr2
  /-- index 13, offset 0x34: BIDR, "Buffer Identifier" (R35). -/
  | bidr
  /-- index 14, offset 0x38: BDRL, "Transmit Buffer (low)" (R36). -/
  | bdrl
  /-- index 15, offset 0x3C: BDRM, "Receive Buffer (mid)" (R37). -/
  | bdrm
  /-- index 16, offset 0x40: GCR, "Global Control" (R38). -/
  | gcr
  /-- index 17, offset 0x44: UARTPTO, "UART Preset Timeout" (R39). -/
  | uartpto
  /-- index 18, offset 0x48: UARTCTO, "UART Current Timeout" (R40). -/
  | uartcto
  /-- index 19, offset 0x4C: DMATXE, "DMA TX Enable" (R41). -/
  | dmatxe
  /-- index 20, offset 0x50: DMARXE, "DMA RX Enable" (R42). -/
  | dmarxe
deriving DecidableEq, Repr

/-- The accepted access sizes, 1 to 4 bytes (20_memory.md R64). -/
inductive AccessSize where
  | one
  | two
  | three
  | four
deriving DecidableEq, Repr

/-- The size in bytes. -/
def AccessSize.bytes : AccessSize → Nat
  | .one => 1
  | .two => 2
  | .three => 3
  | .four => 4

/-- The operations, one constructor for each row of the opcode map R86. A register operation's byte offset is four
times the register's index plus `lane` (R86: "the register's four byte offsets"); `data` is the data word `D`
(R81). The snapshot record of `postload` is an operand outside the two words (R81) and is found in the state. -/
inductive Instr where
  /-- `RD.LINCR1`: bus read of LINCR1 (R141). -/
  | rdLincr1 (size : AccessSize) (lane : Lane)
  /-- `RD.LINIER`: bus read of LINIER (R142). -/
  | rdLinier (size : AccessSize) (lane : Lane)
  /-- `RD.LINSR`: bus read of LINSR (R143). -/
  | rdLinsr (size : AccessSize) (lane : Lane)
  /-- `RD.LINESR`: bus read of LINESR (R144). -/
  | rdLinesr (size : AccessSize) (lane : Lane)
  /-- `RD.UARTCR`: bus read of UARTCR (R145). -/
  | rdUartcr (size : AccessSize) (lane : Lane)
  /-- `RD.UARTSR`: bus read of UARTSR (R146). -/
  | rdUartsr (size : AccessSize) (lane : Lane)
  /-- `RD.LINTCSR`: bus read of LINTCSR (R147). -/
  | rdLintcsr (size : AccessSize) (lane : Lane)
  /-- `RD.LINOCR`: bus read of LINOCR (R148). -/
  | rdLinocr (size : AccessSize) (lane : Lane)
  /-- `RD.LINTOCR`: bus read of LINTOCR (R149). -/
  | rdLintocr (size : AccessSize) (lane : Lane)
  /-- `RD.LINFBRR`: bus read of LINFBRR (R150). -/
  | rdLinfbrr (size : AccessSize) (lane : Lane)
  /-- `RD.LINIBRR`: bus read of LINIBRR (R151). -/
  | rdLinibrr (size : AccessSize) (lane : Lane)
  /-- `RD.LINCFR`: bus read of LINCFR (R152). -/
  | rdLincfr (size : AccessSize) (lane : Lane)
  /-- `RD.LINCR2`: bus read of LINCR2 (R153). -/
  | rdLincr2 (size : AccessSize) (lane : Lane)
  /-- `RD.BIDR`: bus read of BIDR (R154). -/
  | rdBidr (size : AccessSize) (lane : Lane)
  /-- `RD.BDRL`: bus read of BDRL (R155). -/
  | rdBdrl (size : AccessSize) (lane : Lane)
  /-- `RD.BDRM`: bus read of BDRM (R156). -/
  | rdBdrm (size : AccessSize) (lane : Lane)
  /-- `RD.GCR`: bus read of GCR (R157). -/
  | rdGcr (size : AccessSize) (lane : Lane)
  /-- `RD.UARTPTO`: bus read of UARTPTO (R158). -/
  | rdUartpto (size : AccessSize) (lane : Lane)
  /-- `RD.UARTCTO`: bus read of UARTCTO (R159). -/
  | rdUartcto (size : AccessSize) (lane : Lane)
  /-- `RD.DMATXE`: bus read of DMATXE (R160). -/
  | rdDmatxe (size : AccessSize) (lane : Lane)
  /-- `RD.DMARXE`: bus read of DMARXE (R161). -/
  | rdDmarxe (size : AccessSize) (lane : Lane)
  /-- `WR.LINCR1`: bus write of LINCR1 (R101). -/
  | wrLincr1 (size : AccessSize) (lane : Lane) (data : Word)
  /-- `WR.LINIER`: bus write of LINIER (R102). -/
  | wrLinier (size : AccessSize) (lane : Lane) (data : Word)
  /-- `WR.LINSR`: bus write of LINSR (R103). -/
  | wrLinsr (size : AccessSize) (lane : Lane) (data : Word)
  /-- `WR.LINESR`: bus write of LINESR (R104). -/
  | wrLinesr (size : AccessSize) (lane : Lane) (data : Word)
  /-- `WR.UARTCR`: bus write of UARTCR (R105). -/
  | wrUartcr (size : AccessSize) (lane : Lane) (data : Word)
  /-- `WR.UARTSR`: bus write of UARTSR (R106). -/
  | wrUartsr (size : AccessSize) (lane : Lane) (data : Word)
  /-- `WR.LINTCSR`: bus write of LINTCSR (R107). -/
  | wrLintcsr (size : AccessSize) (lane : Lane) (data : Word)
  /-- `WR.LINOCR`: bus write of LINOCR (R108). -/
  | wrLinocr (size : AccessSize) (lane : Lane) (data : Word)
  /-- `WR.LINTOCR`: bus write of LINTOCR (R109). -/
  | wrLintocr (size : AccessSize) (lane : Lane) (data : Word)
  /-- `WR.LINFBRR`: bus write of LINFBRR (R110). -/
  | wrLinfbrr (size : AccessSize) (lane : Lane) (data : Word)
  /-- `WR.LINIBRR`: bus write of LINIBRR (R111). -/
  | wrLinibrr (size : AccessSize) (lane : Lane) (data : Word)
  /-- `WR.LINCFR`: bus write of LINCFR (R112). -/
  | wrLincfr (size : AccessSize) (lane : Lane) (data : Word)
  /-- `WR.LINCR2`: bus write of LINCR2 (R113). -/
  | wrLincr2 (size : AccessSize) (lane : Lane) (data : Word)
  /-- `WR.BIDR`: bus write of BIDR (R114). -/
  | wrBidr (size : AccessSize) (lane : Lane) (data : Word)
  /-- `WR.BDRL`: bus write of BDRL (R115). -/
  | wrBdrl (size : AccessSize) (lane : Lane) (data : Word)
  /-- `WR.BDRM`: bus write of BDRM (R116). -/
  | wrBdrm (size : AccessSize) (lane : Lane) (data : Word)
  /-- `WR.GCR`: bus write of GCR (R117). -/
  | wrGcr (size : AccessSize) (lane : Lane) (data : Word)
  /-- `WR.UARTPTO`: bus write of UARTPTO (R118). -/
  | wrUartpto (size : AccessSize) (lane : Lane) (data : Word)
  /-- `WR.UARTCTO`: bus write of UARTCTO (R119). -/
  | wrUartcto (size : AccessSize) (lane : Lane) (data : Word)
  /-- `WR.DMATXE`: bus write of DMATXE (R120). -/
  | wrDmatxe (size : AccessSize) (lane : Lane) (data : Word)
  /-- `WR.DMARXE`: bus write of DMARXE (R121). -/
  | wrDmarxe (size : AccessSize) (lane : Lane) (data : Word)
  /-- `RD.INVALID`: bus read of an offset that decodes to no register (R162). -/
  | rdInvalid (size : AccessSize) (offset : Offset)
  /-- `WR.INVALID`: bus write of an offset that decodes to no register (R122). -/
  | wrInvalid (size : AccessSize) (offset : Offset) (data : Word)
  /-- `GATE`: the acceptance gate query of the transport (R171). -/
  | gate
  /-- `RX`: delivery of one byte by the transport (R172). -/
  | rx (byte : Byte)
  /-- `RST.ENTER`: reset phase Enter (R231). -/
  | rstEnter
  /-- `RST.HOLD`: reset phase Hold (R232). -/
  | rstHold
  /-- `RST.EXIT`: reset phase Exit (R233). -/
  | rstExit
  /-- `POSTLOAD`: post-load reconciliation of a snapshot record (R235). -/
  | postload
deriving DecidableEq, Repr

end Sys2Proof
end

