-- ==== Sys2Proof/WellFormed.lean ====
section
/-! DEFINITION. Which terms of `Instr` are operations the encoding can spell (30_encoding.md R81, R85): the data of a
write fits its size, and the offset of an INVALID operation decodes to no register. -/

namespace Sys2Proof

/-- `D[31:8*size] = 0` (R81): the data word holds nothing above the access size. -/
def dataFits (size : AccessSize) (data : Word) : Bool :=
  data >>> (8 * size.bytes) == 0#32

/-- `A[11:2] > 20` (R85): the offset selects none of the 21 registers. -/
def offsetInvalid (offset : Offset) : Bool :=
  decide (20 < offset.toNat / 4)

/-- The well-formed operations: exactly those some pair `(W, D)` decodes to. -/
def Instr.wellFormed : Instr → Bool
  | .rdLincr1 _ _ => true
  | .rdLinier _ _ => true
  | .rdLinsr _ _ => true
  | .rdLinesr _ _ => true
  | .rdUartcr _ _ => true
  | .rdUartsr _ _ => true
  | .rdLintcsr _ _ => true
  | .rdLinocr _ _ => true
  | .rdLintocr _ _ => true
  | .rdLinfbrr _ _ => true
  | .rdLinibrr _ _ => true
  | .rdLincfr _ _ => true
  | .rdLincr2 _ _ => true
  | .rdBidr _ _ => true
  | .rdBdrl _ _ => true
  | .rdBdrm _ _ => true
  | .rdGcr _ _ => true
  | .rdUartpto _ _ => true
  | .rdUartcto _ _ => true
  | .rdDmatxe _ _ => true
  | .rdDmarxe _ _ => true
  | .wrLincr1 size _ data => dataFits size data
  | .wrLinier size _ data => dataFits size data
  | .wrLinsr size _ data => dataFits size data
  | .wrLinesr size _ data => dataFits size data
  | .wrUartcr size _ data => dataFits size data
  | .wrUartsr size _ data => dataFits size data
  | .wrLintcsr size _ data => dataFits size data
  | .wrLinocr size _ data => dataFits size data
  | .wrLintocr size _ data => dataFits size data
  | .wrLinfbrr size _ data => dataFits size data
  | .wrLinibrr size _ data => dataFits size data
  | .wrLincfr size _ data => dataFits size data
  | .wrLincr2 size _ data => dataFits size data
  | .wrBidr size _ data => dataFits size data
  | .wrBdrl size _ data => dataFits size data
  | .wrBdrm size _ data => dataFits size data
  | .wrGcr size _ data => dataFits size data
  | .wrUartpto size _ data => dataFits size data
  | .wrUartcto size _ data => dataFits size data
  | .wrDmatxe size _ data => dataFits size data
  | .wrDmarxe size _ data => dataFits size data
  | .rdInvalid _ offset => offsetInvalid offset
  | .wrInvalid size offset data => dataFits size data && offsetInvalid offset
  | .gate => true
  | .rx _ => true
  | .rstEnter => true
  | .rstHold => true
  | .rstExit => true
  | .postload => true

end Sys2Proof
end

