-- ==== Sys2Proof/Decode.lean ====
section
/-! DEFINITION. The encoding of the operations as two 32-bit words, `W` and `D` (30_encoding.md R81 to R87): the decoder,
total on every pair and rejecting by name, and the encoder. The pair is a pair of words, not of byte sequences: the spec
gives the encoding no byte order (R67; log 12). -/

namespace Sys2Proof

/-- Which check of R85 refuses a pair as Reserved. -/
inductive ReservedForm where
  /-- `W[28:26]` or `W[23:12]` is not 0. -/
  | reservedField
  /-- a write whose `D` holds bits above the access size. -/
  | dataAboveSize
  /-- a read whose `D` is not 0. -/
  | readWithData
  /-- a kind from 2 to 7 with `Z` or `A` not 0. -/
  | operandField
  /-- a delivery whose `D[31:8]` is not 0. -/
  | deliveryAboveByte
  /-- a kind that takes no data whose `D` is not 0. -/
  | controlWithData
deriving DecidableEq, Repr

/-- The index of a register in the file (10_state.md R21). -/
def regIndex : Reg → Nat
  | .lincr1 => 0
  | .linier => 1
  | .linsr => 2
  | .linesr => 3
  | .uartcr => 4
  | .uartsr => 5
  | .lintcsr => 6
  | .linocr => 7
  | .lintocr => 8
  | .linfbrr => 9
  | .linibrr => 10
  | .lincfr => 11
  | .lincr2 => 12
  | .bidr => 13
  | .bdrl => 14
  | .bdrm => 15
  | .gcr => 16
  | .uartpto => 17
  | .uartcto => 18
  | .dmatxe => 19
  | .dmarxe => 20

/-- The register an index selects, none above 20 (20_memory.md R63). -/
def regOfIndex : Nat → Option Reg
  | 0 => some .lincr1
  | 1 => some .linier
  | 2 => some .linsr
  | 3 => some .linesr
  | 4 => some .uartcr
  | 5 => some .uartsr
  | 6 => some .lintcsr
  | 7 => some .linocr
  | 8 => some .lintocr
  | 9 => some .linfbrr
  | 10 => some .linibrr
  | 11 => some .lincfr
  | 12 => some .lincr2
  | 13 => some .bidr
  | 14 => some .bdrl
  | 15 => some .bdrm
  | 16 => some .gcr
  | 17 => some .uartpto
  | 18 => some .uartcto
  | 19 => some .dmatxe
  | 20 => some .dmarxe
  | _ => none

/-- The byte offset `4 * index + lane` of an access to a register (R62, R86). -/
def regOffset (r : Reg) (lane : Lane) : Offset :=
  BitVec.ofNat 10 (regIndex r) ++ lane

/-- The size field: `size = Z + 1` (R83). -/
def sizeOfField (z : BitVec 2) : AccessSize :=
  match z.toNat with
  | 0 => .one
  | 1 => .two
  | 2 => .three
  | _ => .four

/-- The size field's value, `size - 1` (R81). -/
def sizeField : AccessSize → BitVec 2
  | .one => 0#2
  | .two => 1#2
  | .three => 2#2
  | .four => 3#2

/-- `RD.<name>` (R85). -/
def readOf (r : Reg) (size : AccessSize) (lane : Lane) : Instr :=
  match r with
  | .lincr1 => .rdLincr1 size lane
  | .linier => .rdLinier size lane
  | .linsr => .rdLinsr size lane
  | .linesr => .rdLinesr size lane
  | .uartcr => .rdUartcr size lane
  | .uartsr => .rdUartsr size lane
  | .lintcsr => .rdLintcsr size lane
  | .linocr => .rdLinocr size lane
  | .lintocr => .rdLintocr size lane
  | .linfbrr => .rdLinfbrr size lane
  | .linibrr => .rdLinibrr size lane
  | .lincfr => .rdLincfr size lane
  | .lincr2 => .rdLincr2 size lane
  | .bidr => .rdBidr size lane
  | .bdrl => .rdBdrl size lane
  | .bdrm => .rdBdrm size lane
  | .gcr => .rdGcr size lane
  | .uartpto => .rdUartpto size lane
  | .uartcto => .rdUartcto size lane
  | .dmatxe => .rdDmatxe size lane
  | .dmarxe => .rdDmarxe size lane

/-- `WR.<name>` (R85). -/
def writeOf (r : Reg) (size : AccessSize) (lane : Lane) (data : Word) : Instr :=
  match r with
  | .lincr1 => .wrLincr1 size lane data
  | .linier => .wrLinier size lane data
  | .linsr => .wrLinsr size lane data
  | .linesr => .wrLinesr size lane data
  | .uartcr => .wrUartcr size lane data
  | .uartsr => .wrUartsr size lane data
  | .lintcsr => .wrLintcsr size lane data
  | .linocr => .wrLinocr size lane data
  | .lintocr => .wrLintocr size lane data
  | .linfbrr => .wrLinfbrr size lane data
  | .linibrr => .wrLinibrr size lane data
  | .lincfr => .wrLincfr size lane data
  | .lincr2 => .wrLincr2 size lane data
  | .bidr => .wrBidr size lane data
  | .bdrl => .wrBdrl size lane data
  | .bdrm => .wrBdrm size lane data
  | .gcr => .wrGcr size lane data
  | .uartpto => .wrUartpto size lane data
  | .uartcto => .wrUartcto size lane data
  | .dmatxe => .wrDmatxe size lane data
  | .dmarxe => .wrDmarxe size lane data

/-- The read an offset and a size spell: `index <= 20` selects a register, any other index is `RD.INVALID` (R85). -/
def readAt (offset : Offset) (size : AccessSize) : Instr :=
  match regOfIndex (offset.toNat / 4) with
  | some r => readOf r size (offset.extractLsb' 0 2)
  | none => .rdInvalid size offset

/-- The write an offset, a size and a data word spell (R85). -/
def writeAt (offset : Offset) (size : AccessSize) (data : Word) : Instr :=
  match regOfIndex (offset.toNat / 4) with
  | some r => writeOf r size (offset.extractLsb' 0 2) data
  | none => .wrInvalid size offset data

/-- The branch of R85 for the kinds 2, 4, 5, 6 and 7, which take no operand in `W` or `D`. -/
def decodeControl (i : Instr) (w d : Word) : Except ReservedForm Instr :=
  if w.extractLsb' 0 26 ≠ 0#26 then .error .operandField
  else if d ≠ 0#32 then .error .controlWithData
  else .ok i

/-- `decode(W, D)` of 30_encoding.md R85: total, and every refusal names the check that fails. -/
def decode (w d : Word) : Except ReservedForm Instr :=
  if w.extractLsb' 26 3 ≠ 0#3 ∨ w.extractLsb' 12 12 ≠ 0#12 then .error .reservedField
  else
    match (w.extractLsb' 29 3).toNat with
    | 0 =>
      if d ≠ 0#32 then .error .readWithData
      else .ok (readAt (w.extractLsb' 0 12) (sizeOfField (w.extractLsb' 24 2)))
    | 1 =>
      if dataFits (sizeOfField (w.extractLsb' 24 2)) d = false then .error .dataAboveSize
      else .ok (writeAt (w.extractLsb' 0 12) (sizeOfField (w.extractLsb' 24 2)) d)
    | 2 => decodeControl .gate w d
    | 3 =>
      if w.extractLsb' 0 26 ≠ 0#26 then .error .operandField
      else if d.extractLsb' 8 24 ≠ 0#24 then .error .deliveryAboveByte
      else .ok (.rx (d.extractLsb' 0 8))
    | 4 => decodeControl .rstEnter w d
    | 5 => decodeControl .rstHold w d
    | 6 => decodeControl .rstExit w d
    | _ => decodeControl .postload w d

/-- The operation word of R81 from its fields `K`, `Z` and `A`, the reserved fields 0. -/
def operationWord (kind : BitVec 3) (z : BitVec 2) (offset : Offset) : Word :=
  kind ++ (0#3 ++ (z ++ (0#12 ++ offset)))

/-- The pair of a bus read (R81, R88). -/
def encodeRead (size : AccessSize) (offset : Offset) : Word × Word :=
  (operationWord 0#3 (sizeField size) offset, 0#32)

/-- The pair of a bus write (R81, R88). -/
def encodeWrite (size : AccessSize) (offset : Offset) (data : Word) : Word × Word :=
  (operationWord 1#3 (sizeField size) offset, data)

/-- The two words `(W, D)` of an operation (R81, R86). -/
def encode : Instr → Word × Word
  | .rdLincr1 size lane => encodeRead size (regOffset .lincr1 lane)
  | .rdLinier size lane => encodeRead size (regOffset .linier lane)
  | .rdLinsr size lane => encodeRead size (regOffset .linsr lane)
  | .rdLinesr size lane => encodeRead size (regOffset .linesr lane)
  | .rdUartcr size lane => encodeRead size (regOffset .uartcr lane)
  | .rdUartsr size lane => encodeRead size (regOffset .uartsr lane)
  | .rdLintcsr size lane => encodeRead size (regOffset .lintcsr lane)
  | .rdLinocr size lane => encodeRead size (regOffset .linocr lane)
  | .rdLintocr size lane => encodeRead size (regOffset .lintocr lane)
  | .rdLinfbrr size lane => encodeRead size (regOffset .linfbrr lane)
  | .rdLinibrr size lane => encodeRead size (regOffset .linibrr lane)
  | .rdLincfr size lane => encodeRead size (regOffset .lincfr lane)
  | .rdLincr2 size lane => encodeRead size (regOffset .lincr2 lane)
  | .rdBidr size lane => encodeRead size (regOffset .bidr lane)
  | .rdBdrl size lane => encodeRead size (regOffset .bdrl lane)
  | .rdBdrm size lane => encodeRead size (regOffset .bdrm lane)
  | .rdGcr size lane => encodeRead size (regOffset .gcr lane)
  | .rdUartpto size lane => encodeRead size (regOffset .uartpto lane)
  | .rdUartcto size lane => encodeRead size (regOffset .uartcto lane)
  | .rdDmatxe size lane => encodeRead size (regOffset .dmatxe lane)
  | .rdDmarxe size lane => encodeRead size (regOffset .dmarxe lane)
  | .wrLincr1 size lane data => encodeWrite size (regOffset .lincr1 lane) data
  | .wrLinier size lane data => encodeWrite size (regOffset .linier lane) data
  | .wrLinsr size lane data => encodeWrite size (regOffset .linsr lane) data
  | .wrLinesr size lane data => encodeWrite size (regOffset .linesr lane) data
  | .wrUartcr size lane data => encodeWrite size (regOffset .uartcr lane) data
  | .wrUartsr size lane data => encodeWrite size (regOffset .uartsr lane) data
  | .wrLintcsr size lane data => encodeWrite size (regOffset .lintcsr lane) data
  | .wrLinocr size lane data => encodeWrite size (regOffset .linocr lane) data
  | .wrLintocr size lane data => encodeWrite size (regOffset .lintocr lane) data
  | .wrLinfbrr size lane data => encodeWrite size (regOffset .linfbrr lane) data
  | .wrLinibrr size lane data => encodeWrite size (regOffset .linibrr lane) data
  | .wrLincfr size lane data => encodeWrite size (regOffset .lincfr lane) data
  | .wrLincr2 size lane data => encodeWrite size (regOffset .lincr2 lane) data
  | .wrBidr size lane data => encodeWrite size (regOffset .bidr lane) data
  | .wrBdrl size lane data => encodeWrite size (regOffset .bdrl lane) data
  | .wrBdrm size lane data => encodeWrite size (regOffset .bdrm lane) data
  | .wrGcr size lane data => encodeWrite size (regOffset .gcr lane) data
  | .wrUartpto size lane data => encodeWrite size (regOffset .uartpto lane) data
  | .wrUartcto size lane data => encodeWrite size (regOffset .uartcto lane) data
  | .wrDmatxe size lane data => encodeWrite size (regOffset .dmatxe lane) data
  | .wrDmarxe size lane data => encodeWrite size (regOffset .dmarxe lane) data
  | .rdInvalid size offset => encodeRead size offset
  | .wrInvalid size offset data => encodeWrite size offset data
  | .gate => (operationWord 2#3 0#2 0#12, 0#32)
  | .rx byte => (operationWord 3#3 0#2 0#12, byte.setWidth 32)
  | .rstEnter => (operationWord 4#3 0#2 0#12, 0#32)
  | .rstHold => (operationWord 5#3 0#2 0#12, 0#32)
  | .rstExit => (operationWord 6#3 0#2 0#12, 0#32)
  | .postload => (operationWord 7#3 0#2 0#12, 0#32)

/-- The word `W` in the low 32 bits of a number laid out as spec/opcode_table.json lays it out. -/
def tableW (nbits w : Nat) : Word :=
  BitVec.ofNat 32 (w % 2 ^ nbits)

/-- The word `D` in the next 32 bits; every bit above `nbits` is 0. -/
def tableD (nbits w : Nat) : Word :=
  BitVec.ofNat 32 (w % 2 ^ nbits / 2 ^ 32)

/-- The operation the decoder reads from a pair given as one number: `W` in bits 31..0, `D` in bits 63..32, the bits
above `nbits` zero; none where the decoder refuses. -/
def decodeTableWord (nbits w : Nat) : Option Instr :=
  match decode (tableW nbits w) (tableD nbits w) with
  | .ok i => some i
  | .error _ => none

end Sys2Proof
end

