-- ==== Sys2Proof/Config.lean ====
section
/-! DEFINITION. The implementation parameters: what the spec leaves to the implementation, the bus or the platform
(00_scope.md R9, R10, R11). The model takes them as arguments (92_eei_decisions.md D1): they stand in the state, no
operation writes them, and a statement about every state holds for every value of them. -/

namespace Sys2Proof

/-- `P_BUS_BYTE_ORDER` (20_memory.md R67): how the bus maps byte addresses to the bits of a datum. -/
inductive ByteOrder where
  | little
  | big
deriving DecidableEq, Repr

/-- The parameters of 00_scope.md R9 and R11. `P_INIT_REGS` and `P_INIT_IRQ` are arguments of the constructed state. -/
structure Params where
  /-- `P_CR1_INIT`: the INIT bit of Control-1. -/
  cr1Init : Word
  /-- `P_LSR_INIT`: the INIT-state flag of LIN Status. -/
  lsrInit : Word
  /-- `P_UCR_UART`: the UART-mode bit of UART-Control. -/
  ucrUart : Word
  /-- `P_USR_RBF`: the receive-buffer-full flag of UART-Status. -/
  usrRbf : Word
  /-- `P_USR_RMB`: the receive-message-pending flag of UART-Status. -/
  usrRmb : Word
  /-- `P_USR_TBE`: the transmit-buffer-empty flag of UART-Status. -/
  usrTbe : Word
  /-- `P_IER_TXIE`: the transmit-complete-enable bit of Interrupt-Enable. -/
  ierTxie : Word
  /-- `P_IER_RXIE`: the receive-complete-enable bit of Interrupt-Enable. -/
  ierRxie : Word
  /-- `P_BASE`: the bus address of byte offset 0 of the window (R60). -/
  base : Nat
  /-- `P_BUS_BYTE_ORDER` (R67). -/
  byteOrder : ByteOrder
  /-- `P_BUS_ADMITS_UNALIGNED` (R66): whether the bus presents misaligned accesses at all. -/
  admitsUnaligned : Bool
  /-- `P_SNAPSHOT_VERSION` (R236). -/
  snapshotVersion : Nat
deriving DecidableEq, Repr

/-- Exactly one bit of the mask is set (R10). -/
def isOneBit (m : Word) : Bool :=
  m != 0#32 && m &&& (m - 1#32) == 0#32

/-- The constraints of 00_scope.md R10 on the role bits, each needed for a rule of the source to be satisfiable. The
literals are R10's own. -/
def Params.ok (p : Params) : Bool :=
  isOneBit p.cr1Init && isOneBit p.lsrInit && isOneBit p.ucrUart && isOneBit p.usrRbf && isOneBit p.usrRmb &&
  isOneBit p.usrTbe && isOneBit p.ierTxie && isOneBit p.ierRxie &&
  p.cr1Init &&& 0x0001DF27#32 != 0#32 && p.cr1Init != 0x00000080#32 &&
  p.usrRbf != p.usrRmb && p.usrRbf != p.usrTbe && p.usrRmb != p.usrTbe &&
  p.usrRbf &&& 0x0000FFFF#32 != 0#32 && p.usrRmb &&& 0x0000FFFF#32 != 0#32 &&
  p.usrTbe &&& 0x0000FFFF#32 != 0#32 &&
  p.ierTxie != p.ierRxie && p.ierTxie &&& 0x0000FFFF#32 != 0#32 && p.ierRxie &&& 0x0000FFFF#32 != 0#32

end Sys2Proof
end

