-- ==== Sys2Proof/Machine/Constants.lean ====
section
/-! DEFINITION. The literals of the block: the masks of 10_state.md R43, the power-on values of R21, and the default
parameter values of 00_scope.md R9. The source's literals are "unaudited" (93_implementation_defined.md I1; log 14). -/

namespace Sys2Proof.Machine

/-- `CR1_WMASK` (R43): the bits of LINCR1 a write can store. -/
def cr1WMask : Word := 0x0001DF27#32

/-- `CR1_FORCE` (R43): the bit of LINCR1 a read forces high. -/
def cr1Force : Word := 0x00000080#32

/-- `IER_WMASK` (R43): the bits of LINIER a write can store. -/
def ierWMask : Word := 0x0000FFFF#32

/-- `UCR_POST_WMASK` (R43): the bits of UARTCR a write can set outside INIT mode. -/
def ucrPostWMask : Word := 0x0070FC30#32

/-- `USR_WMASK` (R43): the bits of a UARTSR write that act as clear bits. -/
def usrWMask : Word := 0x0000FFFF#32

/-- `BDRM_RMASK` (R43): the bits of BDRM a read returns. -/
def bdrmRMask : Word := 0x000000FF#32

/-- `BYTE_MASK` (R43): the character byte of BDRL and BDRM. -/
def byteMask : Word := 0x000000FF#32

/-- `PowerOn(i)` (R21, power-on column): the value the reset enter phase gives each register. -/
def powerOn : Reg → Word
  | .lincr1 => 0x00000082#32
  | .linier => 0x00000000#32
  | .linsr => 0x00000040#32
  | .linesr => 0x00000000#32
  | .uartcr => 0x00000000#32
  | .uartsr => 0x00000000#32
  | .lintcsr => 0x00000200#32
  | .linocr => 0x0000FFFF#32
  | .lintocr => 0x00000E2C#32
  | .linfbrr => 0x00000000#32
  | .linibrr => 0x00000000#32
  | .lincfr => 0x00000000#32
  | .lincr2 => 0x00006000#32
  | .bidr => 0x00000000#32
  | .bdrl => 0x00000000#32
  | .bdrm => 0x00000000#32
  | .gcr => 0x00000000#32
  | .uartpto => 0x00000FFF#32
  | .uartcto => 0x00000000#32
  | .dmatxe => 0x00000000#32
  | .dmarxe => 0x00000000#32

/-- The default parameters of R9, the values the spec's own vectors use. PRESUMED (all but `P_IER_TXIE` are general
knowledge of the family; log 1); `base`, `byteOrder`, `admitsUnaligned` and `snapshotVersion` have no default in the
spec: DESIGN CHOICE (log 2, log 3, log 4). Unsafe: a claim that rests on a position holds only under these values. -/
def defaultParams : Params where
  cr1Init := 0x00000001#32
  lsrInit := 0x00001000#32
  ucrUart := 0x00000001#32
  usrRbf := 0x00000004#32
  usrRmb := 0x00000200#32
  usrTbe := 0x00000002#32
  ierTxie := 0x00000001#32
  ierRxie := 0x00000004#32
  base := 0
  byteOrder := .little
  admitsUnaligned := true
  snapshotVersion := 0

end Sys2Proof.Machine
end

