-- ==== Sys2Proof/Machine/RegFile.lean ====
section
/-! DEFINITION. The register file: "an ordered, fixed-length array of 32-bit unsigned values, one slot per named register
index" (10_state.md R20), its read and its write. -/

namespace Sys2Proof.Machine

/-- The 21 slots of R20 and R21, in index order. -/
structure RegFile where
  /-- LINCR1 (R22). -/
  lincr1 : Word
  /-- LINIER (R23). -/
  linier : Word
  /-- LINSR (R24). -/
  linsr : Word
  /-- LINESR (R25). -/
  linesr : Word
  /-- UARTCR (R26). -/
  uartcr : Word
  /-- UARTSR (R27). -/
  uartsr : Word
  /-- LINTCSR (R28). -/
  lintcsr : Word
  /-- LINOCR (R29). -/
  linocr : Word
  /-- LINTOCR (R30). -/
  lintocr : Word
  /-- LINFBRR (R31). -/
  linfbrr : Word
  /-- LINIBRR (R32). -/
  linibrr : Word
  /-- LINCFR (R33). -/
  lincfr : Word
  /-- LINCR2 (R34). -/
  lincr2 : Word
  /-- BIDR (R35). -/
  bidr : Word
  /-- BDRL (R36). -/
  bdrl : Word
  /-- BDRM (R37). -/
  bdrm : Word
  /-- GCR (R38). -/
  gcr : Word
  /-- UARTPTO (R39). -/
  uartpto : Word
  /-- UARTCTO (R40). -/
  uartcto : Word
  /-- DMATXE (R41). -/
  dmatxe : Word
  /-- DMARXE (R42). -/
  dmarxe : Word
deriving DecidableEq, Repr

/-- `reg[N]` (00_scope.md R14). -/
def fileGet (f : RegFile) : Reg → Word
  | .lincr1 => f.lincr1
  | .linier => f.linier
  | .linsr => f.linsr
  | .linesr => f.linesr
  | .uartcr => f.uartcr
  | .uartsr => f.uartsr
  | .lintcsr => f.lintcsr
  | .linocr => f.linocr
  | .lintocr => f.lintocr
  | .linfbrr => f.linfbrr
  | .linibrr => f.linibrr
  | .lincfr => f.lincfr
  | .lincr2 => f.lincr2
  | .bidr => f.bidr
  | .bdrl => f.bdrl
  | .bdrm => f.bdrm
  | .gcr => f.gcr
  | .uartpto => f.uartpto
  | .uartcto => f.uartcto
  | .dmatxe => f.dmatxe
  | .dmarxe => f.dmarxe

/-- `reg[N] <- v` (00_scope.md R14): one slot changes. -/
def fileSet (f : RegFile) (r : Reg) (v : Word) : RegFile :=
  match r with
  | .lincr1 => { f with lincr1 := v }
  | .linier => { f with linier := v }
  | .linsr => { f with linsr := v }
  | .linesr => { f with linesr := v }
  | .uartcr => { f with uartcr := v }
  | .uartsr => { f with uartsr := v }
  | .lintcsr => { f with lintcsr := v }
  | .linocr => { f with linocr := v }
  | .lintocr => { f with lintocr := v }
  | .linfbrr => { f with linfbrr := v }
  | .linibrr => { f with linibrr := v }
  | .lincfr => { f with lincfr := v }
  | .lincr2 => { f with lincr2 := v }
  | .bidr => { f with bidr := v }
  | .bdrl => { f with bdrl := v }
  | .bdrm => { f with bdrm := v }
  | .gcr => { f with gcr := v }
  | .uartpto => { f with uartpto := v }
  | .uartcto => { f with uartcto := v }
  | .dmatxe => { f with dmatxe := v }
  | .dmarxe => { f with dmarxe := v }

/-- The file whose slot `r` holds `g r`. -/
def fileOf (g : Reg → Word) : RegFile where
  lincr1 := g .lincr1
  linier := g .linier
  linsr := g .linsr
  linesr := g .linesr
  uartcr := g .uartcr
  uartsr := g .uartsr
  lintcsr := g .lintcsr
  linocr := g .linocr
  lintocr := g .lintocr
  linfbrr := g .linfbrr
  linibrr := g .linibrr
  lincfr := g .lincfr
  lincr2 := g .lincr2
  bidr := g .bidr
  bdrl := g .bdrl
  bdrm := g .bdrm
  gcr := g .gcr
  uartpto := g .uartpto
  uartcto := g .uartcto
  dmatxe := g .dmatxe
  dmarxe := g .dmarxe

/-- The words of the file in index order 0 to 20 (R236). -/
def fileWords (f : RegFile) : List Word :=
  [f.lincr1, f.linier, f.linsr, f.linesr, f.uartcr, f.uartsr, f.lintcsr, f.linocr, f.lintocr, f.linfbrr, f.linibrr,
    f.lincfr, f.lincr2, f.bidr, f.bdrl, f.bdrm, f.gcr, f.uartpto, f.uartcto, f.dmatxe, f.dmarxe]

/-- The file a list of words in index order fills, none unless it has exactly 21 words (R236). -/
def fileOfWords : List Word → Option RegFile
  | [lincr1, linier, linsr, linesr, uartcr, uartsr, lintcsr, linocr, lintocr, linfbrr, linibrr,
      lincfr, lincr2, bidr, bdrl, bdrm, gcr, uartpto, uartcto, dmatxe, dmarxe] =>
    some { lincr1, linier, linsr, linesr, uartcr, uartsr, lintcsr, linocr, lintocr, linfbrr, linibrr,
           lincfr, lincr2, bidr, bdrl, bdrm, gcr, uartpto, uartcto, dmatxe, dmarxe }
  | _ => none

end Sys2Proof.Machine
end

