-- ==== Sys2Proof/Machine/State.lean ====
section
/-! DEFINITION. The state of the machine as plain data, the reasons a step can stop, and the state after reset. -/

namespace Sys2Proof.Machine

/-- The two diagnostic kinds of 60_exceptions.md R210; names only, no numeric codes. -/
inductive DiagKind where
  | unimplementedRegister
  | invalidRegister
deriving DecidableEq, Repr

/-- The observable outputs of the block (10_state.md R46). -/
inductive Event where
  /-- `TxByte(b)`: push of exactly one outbound byte to the transport (R174). -/
  | txByte (byte : Byte)
  /-- `Resume`: the resume notification to the transport (R173). -/
  | resume
  /-- `IrqLevel(l)`: the line is driven to level `l` (R201). -/
  | irqLevel (level : Bool)
  /-- `Diag(K, offset)`: a diagnostic report (R210). -/
  | diag (kind : DiagKind) (offset : Offset)
deriving DecidableEq, Repr

/-- What the last operation handed back to its caller: the result column of 30_encoding.md R80. -/
inductive Answer where
  /-- the operation has no result. -/
  | nothing
  /-- a bus read returned the `u32` value, of which the bus delivers `value[8*size-1:0]` (R64, R140). -/
  | value (returned delivered : Word)
  /-- the acceptance gate answered (R171). -/
  | accept (accepts : Bool)
deriving DecidableEq, Repr

/-- A snapshot record, the pair (`version`, `words`) of 70_reset_and_hazards.md R236. Any record may be presented; one
of another version or length is refused (R235). -/
structure SnapshotRecord where
  version : Nat
  words : List Word
deriving DecidableEq, Repr

/-- One call of a collaborator: the pair `(W, D)` of 30_encoding.md R81 and, for POSTLOAD, the record that is an operand
outside the pair. -/
structure Call where
  w : Word
  d : Word
  record : Option SnapshotRecord
deriving DecidableEq, Repr

/-- Where the block stands in a reset sequence: "ResetEnter(), then ResetHold(), then ResetExit()"
(70_reset_and_hazards.md R230). -/
inductive ResetPhase where
  /-- no reset is under way. -/
  | running
  /-- the enter phase has run and the hold phase has not. -/
  | entered
  /-- the hold phase has run and the exit phase has not. -/
  | held
deriving DecidableEq, Repr

/-- The machine's state. `regs`, `irq` and `trace` are the block's (10_state.md R20, R45, R46); `cfg` holds the
parameters, which no operation writes; `phase` is how far a reset has come (70_reset_and_hazards.md R230; log 7);
`calls`, `record` and `answer` are the MODEL's own: the operations called and not yet run (R47, R73), the record
presented with the running one, and the last result (log 5, log 9). -/
structure State where
  cfg : Params
  regs : RegFile
  irq : Bool
  trace : List Event
  answer : Answer
  record : Option SnapshotRecord
  calls : List Call
  phase : ResetPhase
deriving DecidableEq, Repr

/-- The reasons a step can fault: none. "No operation of the block faults, hangs or fails" (60_exceptions.md R211), and
the block takes no trap (R208), so the type has no constructor. Exact. -/
inductive Fault where
deriving DecidableEq, Repr

/-- The reasons a step can be refused: the collaborator's call is no operation, or one it may not make. -/
inductive Refusal where
  /-- Raised by `exec` for an operation that has no meaning yet. No arm of this model raises it. Safe. -/
  | notModelled (mnemonic : String)
  /-- Raised by the step when the pair `(W, D)` spells no operation: "a model refuses it and gives it no step"
  (30_encoding.md R87). Safe: the encoding is the spec's own and no such call exists. -/
  | reservedEncoding (form : ReservedForm)
  /-- Raised by the step when the transport delivers while the acceptance gate is false: "A model gives the transport no
  delivery move when the gate is false" (42_transport.md R175). Unsafe for a transport that breaks its contract (log 6). -/
  | deliveryWhileGateClosed
  /-- Raised by the step for a misaligned bus access when `P_BUS_ADMITS_UNALIGNED` is false: the bus never presents it
  (20_memory.md R66, D6). Unsafe for a bus that does (log 3). -/
  | unalignedNotPresented
  /-- Raised by the step for a reset phase out of order, or for any other call between the phases of a reset: "A reset
  always runs all three, in that order, with no bus access, transport call or post-load between them"
  (70_reset_and_hazards.md R230, D14). Unsafe for a system that lets a call in between (log 7). -/
  | resetOrderBroken
  /-- Raised by POSTLOAD when no record is presented with it: the operation lacks its operand (30_encoding.md R80). Safe. -/
  | recordMissing
  /-- Raised by POSTLOAD when the record has another version or another length than R236 gives: "refused, and the
  operation has no step" (70_reset_and_hazards.md R235, D17). Safe. -/
  | recordFormat
deriving DecidableEq, Repr

/-- The state after construction and before any operation: `P_INIT_REGS` and `P_INIT_IRQ` are any values
(70_reset_and_hazards.md R237, 10_state.md R45; log 10). -/
def State.constructed (cfg : Params) (initRegs : RegFile) (initIrq : Bool) : State where
  cfg := cfg
  regs := initRegs
  irq := initIrq
  trace := []
  answer := .nothing
  record := none
  calls := []
  phase := .running

/-- The state right after a complete reset (70_reset_and_hazards.md R234), for any parameters: the power-on values with
`P_USR_TBE` set in UARTSR, the line at 0, and the two events the reset emits. -/
def State.resetWith (cfg : Params) : State where
  cfg := cfg
  regs := fileSet (fileOf powerOn) .uartsr (powerOn .uartsr ||| cfg.usrTbe)
  irq := false
  trace := [.irqLevel false, .resume]
  answer := .nothing
  record := none
  calls := []
  phase := .running

/-- The machine right after reset, under the default parameters (log 1 to log 4). -/
def State.reset : State := State.resetWith defaultParams

end Sys2Proof.Machine
end

