-- ==== Sys2Proof/Machine/Operands.lean ====
section
/-! DEFINITION. The operand forms: access sizes and values, alignment, the bus's routing and byte lanes
(20_memory.md R60 to R67, 30_encoding.md R83). -/

namespace Sys2Proof.Machine

/-- The low `8*size` bits of a word, zero-extended to 32 bits. -/
def lowBytes (size : AccessSize) (v : Word) : Word :=
  (v.setWidth (8 * size.bytes)).setWidth 32

/-- The value a write hands the register operation: `zext_32(data[8*size-1:0])` (R64, R83, R100). -/
def writeValue (size : AccessSize) (data : Word) : Word :=
  lowBytes size data

/-- What the bus delivers of a read value: `v[8*size-1:0]` (R64). No byte lane is selected (R65). -/
def deliveredValue (size : AccessSize) (v : Word) : Word :=
  lowBytes size v

/-- The character byte of a word (R43 `BYTE_MASK`, R115). -/
def charByte (v : Word) : Byte :=
  (v &&& byteMask).setWidth 8

/-- An access whose offset is not a multiple of its size, or whose bytes straddle two register slots (R66). -/
def misaligned (offset : Offset) (size : AccessSize) : Bool :=
  offset.toNat % size.bytes != 0 || decide (4 < offset.toNat % 4 + size.bytes)

/-- The offset and size of a bus operation, none for the other kinds (R80). -/
def busAccess : Instr → Option (Offset × AccessSize)
  | .rdLincr1 size lane => some (regOffset .lincr1 lane, size)
  | .rdLinier size lane => some (regOffset .linier lane, size)
  | .rdLinsr size lane => some (regOffset .linsr lane, size)
  | .rdLinesr size lane => some (regOffset .linesr lane, size)
  | .rdUartcr size lane => some (regOffset .uartcr lane, size)
  | .rdUartsr size lane => some (regOffset .uartsr lane, size)
  | .rdLintcsr size lane => some (regOffset .lintcsr lane, size)
  | .rdLinocr size lane => some (regOffset .linocr lane, size)
  | .rdLintocr size lane => some (regOffset .lintocr lane, size)
  | .rdLinfbrr size lane => some (regOffset .linfbrr lane, size)
  | .rdLinibrr size lane => some (regOffset .linibrr lane, size)
  | .rdLincfr size lane => some (regOffset .lincfr lane, size)
  | .rdLincr2 size lane => some (regOffset .lincr2 lane, size)
  | .rdBidr size lane => some (regOffset .bidr lane, size)
  | .rdBdrl size lane => some (regOffset .bdrl lane, size)
  | .rdBdrm size lane => some (regOffset .bdrm lane, size)
  | .rdGcr size lane => some (regOffset .gcr lane, size)
  | .rdUartpto size lane => some (regOffset .uartpto lane, size)
  | .rdUartcto size lane => some (regOffset .uartcto lane, size)
  | .rdDmatxe size lane => some (regOffset .dmatxe lane, size)
  | .rdDmarxe size lane => some (regOffset .dmarxe lane, size)
  | .wrLincr1 size lane _ => some (regOffset .lincr1 lane, size)
  | .wrLinier size lane _ => some (regOffset .linier lane, size)
  | .wrLinsr size lane _ => some (regOffset .linsr lane, size)
  | .wrLinesr size lane _ => some (regOffset .linesr lane, size)
  | .wrUartcr size lane _ => some (regOffset .uartcr lane, size)
  | .wrUartsr size lane _ => some (regOffset .uartsr lane, size)
  | .wrLintcsr size lane _ => some (regOffset .lintcsr lane, size)
  | .wrLinocr size lane _ => some (regOffset .linocr lane, size)
  | .wrLintocr size lane _ => some (regOffset .lintocr lane, size)
  | .wrLinfbrr size lane _ => some (regOffset .linfbrr lane, size)
  | .wrLinibrr size lane _ => some (regOffset .linibrr lane, size)
  | .wrLincfr size lane _ => some (regOffset .lincfr lane, size)
  | .wrLincr2 size lane _ => some (regOffset .lincr2 lane, size)
  | .wrBidr size lane _ => some (regOffset .bidr lane, size)
  | .wrBdrl size lane _ => some (regOffset .bdrl lane, size)
  | .wrBdrm size lane _ => some (regOffset .bdrm lane, size)
  | .wrGcr size lane _ => some (regOffset .gcr lane, size)
  | .wrUartpto size lane _ => some (regOffset .uartpto lane, size)
  | .wrUartcto size lane _ => some (regOffset .uartcto lane, size)
  | .wrDmatxe size lane _ => some (regOffset .dmatxe lane, size)
  | .wrDmarxe size lane _ => some (regOffset .dmarxe lane, size)
  | .rdInvalid size offset => some (offset, size)
  | .wrInvalid size offset _ => some (offset, size)
  | .gate => none
  | .rx _ => none
  | .rstEnter => none
  | .rstHold => none
  | .rstExit => none
  | .postload => none

/-- The bus's routing: address `a` reaches the block when `P_BASE <= a < P_BASE + 4096`, with `offset = a - P_BASE`
(R60). Routing is the bus's; the block only sees offsets. -/
def route (cfg : Params) (a : Nat) : Option Offset :=
  if cfg.base ≤ a ∧ a < cfg.base + 4096 then some (BitVec.ofNat 12 (a - cfg.base)) else none

/-- The datum of bytes given from the least significant one up. -/
def datumOfLsbFirst : List Byte → Word
  | [] => 0#32
  | b :: bs => b.setWidth 32 ||| datumOfLsbFirst bs <<< 8

/-- The datum the bus makes of the bytes at rising addresses, by `P_BUS_BYTE_ORDER` (R67). -/
def busDatum (cfg : Params) (bytes : List Byte) : Word :=
  match cfg.byteOrder with
  | .little => datumOfLsbFirst bytes
  | .big => datumOfLsbFirst bytes.reverse

/-- The first `n` bytes of a word from the least significant one up. -/
def lsbFirstBytes : Nat → Word → List Byte
  | 0, _ => []
  | n + 1, v => v.setWidth 8 :: lsbFirstBytes n (v >>> 8)

/-- The bytes at rising addresses that a requester sees of a read value, by `P_BUS_BYTE_ORDER` (R64, R67). -/
def busBytes (cfg : Params) (size : AccessSize) (v : Word) : List Byte :=
  match cfg.byteOrder with
  | .little => lsbFirstBytes size.bytes v
  | .big => (lsbFirstBytes size.bytes v).reverse

/-- The call the bus makes for a guest's read at bus address `a`, none where the address is not the block's (R60). -/
def guestRead (cfg : Params) (a : Nat) (size : AccessSize) : Option Call :=
  (route cfg a).map fun offset => ⟨(encodeRead size offset).1, (encodeRead size offset).2, none⟩

/-- The call the bus makes for a guest's write of a datum at bus address `a` (R60, R64). -/
def guestWrite (cfg : Params) (a : Nat) (size : AccessSize) (data : Word) : Option Call :=
  (route cfg a).map fun offset =>
    ⟨(encodeWrite size offset (lowBytes size data)).1, (encodeWrite size offset (lowBytes size data)).2, none⟩

end Sys2Proof.Machine
end

