-- ==== Sys2Proof/Machine/Flags.lean ====
section
/-! DEFINITION. The status flags and mode predicates: 10_state.md R44, R52, R53, the level of 60_exceptions.md R200 and the
gate of 42_transport.md R171, each a function of the current registers. -/

namespace Sys2Proof.Machine

/-- "bit `m` is set in `v`" for a one-bit mask `m` (00_scope.md R12). -/
def hasBit (v m : Word) : Bool :=
  v &&& m != 0#32

/-- `InInit` (R52): the stored INIT bit of LINCR1. -/
def inInit (s : State) : Bool :=
  hasBit (fileGet s.regs .lincr1) s.cfg.cr1Init

/-- `UartMode` (R53): the stored UART-mode bit of UARTCR. -/
def uartMode (s : State) : Bool :=
  hasBit (fileGet s.regs .uartcr) s.cfg.ucrUart

/-- The receive-buffer-full flag (R44). -/
def rbfSet (s : State) : Bool :=
  hasBit (fileGet s.regs .uartsr) s.cfg.usrRbf

/-- The receive-message-pending flag (R44). -/
def rmbSet (s : State) : Bool :=
  hasBit (fileGet s.regs .uartsr) s.cfg.usrRmb

/-- The transmit-buffer-empty flag (R44). -/
def tbeSet (s : State) : Bool :=
  hasBit (fileGet s.regs .uartsr) s.cfg.usrTbe

/-- The receive-complete enable (R23, R204). -/
def rxEnabled (s : State) : Bool :=
  hasBit (fileGet s.regs .linier) s.cfg.ierRxie

/-- The transmit-complete enable (R23, R204). -/
def txEnabled (s : State) : Bool :=
  hasBit (fileGet s.regs .linier) s.cfg.ierTxie

/-- The level `UpdateIRQ()` computes (R200): the receive source first, then the transmit source. -/
def lineLevel (s : State) : Bool :=
  if rxEnabled s && rbfSet s then true
  else if txEnabled s && tbeSet s then true
  else false

/-- The acceptance gate (R171): neither receive flag is set. No mode gates it (R178). -/
def gateOpen (s : State) : Bool :=
  !rbfSet s && !rmbSet s

/-- A UARTSR write with clear bits `v` acknowledges a set receive flag (R106: `rbf_ack or rmb_ack`). -/
def acknowledgesReceive (v : Word) (s : State) : Bool :=
  (rbfSet s && hasBit v s.cfg.usrRbf) || (rmbSet s && hasBit v s.cfg.usrRmb)

end Sys2Proof.Machine
end

