-- ==== Sys2Proof/Machine/Ops.lean ====
section
/-! DEFINITION. The shared operations: the pseudocode primitives of 00_scope.md R14, `UpdateIRQ()` of 60_exceptions.md
R200, and the common write and read procedures of 40_bus_write.md R100 and R123 and 41_bus_read.md R140. The block takes
no trap and returns from none (R208): driving the line is its whole interrupt-related action. -/

namespace Sys2Proof.Machine

/-- The outcome of one step of this machine. -/
abbrev Result := Host.Outcome State Fault Refusal

/-- `reg[N]` (R14). -/
def reg (s : State) (r : Reg) : Word :=
  fileGet s.regs r

/-- `reg[N] <- v` (R14). -/
def setReg (s : State) (r : Reg) (v : Word) : State :=
  { s with regs := fileSet s.regs r v }

/-- Replacement of the whole register file (R231, R235). -/
def loadRegs (s : State) (f : RegFile) : State :=
  { s with regs := f }

/-- `emit E` (R14): append to the event trace. -/
def emit (s : State) (e : Event) : State :=
  { s with trace := s.trace ++ [e] }

/-- `report K(offset)` (R14, R210): a diagnostic event, no state. -/
def report (s : State) (k : DiagKind) (offset : Offset) : State :=
  emit s (.diag k offset)

/-- The level of the output line (R45). -/
def driveLine (s : State) (level : Bool) : State :=
  { s with irq := level }

/-- The result handed back to the caller (R80). -/
def answerWith (s : State) (a : Answer) : State :=
  { s with answer := a }

/-- `UpdateIRQ()` (60_exceptions.md R200): the level is re-driven and emitted every time, never toggled (R201). -/
def updateIRQ (s : State) : State :=
  emit (driveLine s (lineLevel s)) (.irqLevel (lineLevel s))

/-- `BusWrite` (R100) around the register's own rule: the value is assembled, the rule runs, then `UpdateIRQ()`. -/
def busWrite (size : AccessSize) (data : Word) (rule : Word → State → State) (s : State) : Result :=
  .next (updateIRQ (rule (writeValue size data) (answerWith s .nothing)))

/-- `BusRead` (R140): the answer of a read whose rule gave `v`. A read never runs `UpdateIRQ()`. -/
def busRead (size : AccessSize) (v : Word) (s : State) : Result :=
  .next (answerWith s (.value v (deliveredValue size v)))

/-- `StoreInert(N, offset, value)` (R123): a verbatim store and the `UnimplementedRegister` diagnostic. -/
def storeInert (r : Reg) (offset : Offset) (v : Word) (s : State) : State :=
  report (setReg s r v) .unimplementedRegister offset

/-- The default read (R140): "return the stored register value unchanged". -/
def readStored (r : Reg) (size : AccessSize) (s : State) : Result :=
  busRead size (reg s r) s

/-- The snapshot record of the current registers (R236): the words in index order, no adjustment. -/
def saveSnapshot (s : State) : SnapshotRecord :=
  ⟨s.cfg.snapshotVersion, fileWords s.regs⟩

/-- The register file of a record, none unless it has the format of R236. -/
def recordRegs (cfg : Params) (r : SnapshotRecord) : Option RegFile :=
  if r.version = cfg.snapshotVersion then fileOfWords r.words else none

end Sys2Proof.Machine
end

