-- ==== Sys2Proof/Machine/Calls.lean ====
section
/-! DEFINITION. How the block is entered: the next operation is the first pending call of a collaborator (10_state.md R47,
20_memory.md R73), decoded by 30_encoding.md R85, and taken only where the collaborator may make it
(70_reset_and_hazards.md R230, 42_transport.md R175, 20_memory.md R66). -/

namespace Sys2Proof.Machine

/-- The order of a reset (70_reset_and_hazards.md R230): the phase after an operation called in this phase, none where no
such call is made. Enter begins a reset, hold and exit follow it, and nothing comes between them. -/
def phaseAfter : ResetPhase → Instr → Option ResetPhase
  | .running, .rstEnter => some .entered
  | .running, .rstHold => none
  | .running, .rstExit => none
  | .running, _ => some .running
  | .entered, .rstHold => some .held
  | .entered, _ => none
  | .held, .rstExit => some .running
  | .held, _ => none

/-- The phase in which an operation may be called (R230). -/
def phaseBefore : Instr → ResetPhase
  | .rstHold => .entered
  | .rstExit => .held
  | _ => .running

/-- Why the collaborator may not make this call in this state, none if it may: the transport delivers only while the gate
is true (R175); the bus presents a misaligned access only if `P_BUS_ADMITS_UNALIGNED` (R66). -/
def notPermitted (i : Instr) (s : State) : Option Refusal :=
  match i with
  | .rx _ => if gateOpen s then none else some .deliveryWhileGateClosed
  | i =>
    match busAccess i with
    | some (offset, size) =>
      if misaligned offset size && !s.cfg.admitsUnaligned then some .unalignedNotPresented else none
    | none => none

/-- The state in which a call's operation runs: the call is taken off the list, its record stands at hand and the reset
sequence moves to phase `ph`. -/
def takeCall (s : State) (c : Call) (rest : List Call) (ph : ResetPhase) : State :=
  { s with calls := rest, record := c.record, phase := ph }

/-- The next operation and the state it runs in: nothing when no call is pending, a refusal when the first call spells no
operation (R87) or may not be made. -/
def nextOperation (s : State) : Option (Except Refusal (Instr × State)) :=
  match s.calls with
  | [] => none
  | c :: rest =>
    match decode c.w c.d with
    | .error form => some (.error (.reservedEncoding form))
    | .ok i =>
      match phaseAfter s.phase i with
      | none => some (.error .resetOrderBroken)
      | some ph =>
        match notPermitted i s with
        | some r => some (.error r)
        | none => some (.ok (i, takeCall s c rest ph))

/-- The state with one more call, to be run before those pending. -/
def withCall (s : State) (c : Call) : State :=
  { s with calls := c :: s.calls }

/-- The state in the phase in which the operation of a pair may be called. -/
def readyFor (s : State) (w d : Word) : State :=
  match decode w d with
  | .ok i => { s with phase := phaseBefore i }
  | .error _ => s

end Sys2Proof.Machine
end

