-- ==== Sys2Proof/Machine/BusRead.lean ====
section
/-! DEFINITION. The bus read operations, 41_bus_read.md R141 to R162. -/

namespace Sys2Proof.Machine

/-- The storage side of `READ_LINCR1()` (R141): bit 7 is set in storage. -/
def forceLincr1 (s : State) : State :=
  setReg s .lincr1 (reg s .lincr1 ||| cr1Force)

/-- RD.LINCR1 (R141): bit 7 is forced in the stored and in the returned value. -/
def execRdLincr1 (size : AccessSize) (s : State) : Result :=
  busRead size (reg (forceLincr1 s) .lincr1) (forceLincr1 s)

/-- RD.LINIER (R142). -/
def execRdLinier (size : AccessSize) (s : State) : Result :=
  readStored .linier size s

/-- RD.LINSR (R143). -/
def execRdLinsr (size : AccessSize) (s : State) : Result :=
  readStored .linsr size s

/-- RD.LINESR (R144). -/
def execRdLinesr (size : AccessSize) (s : State) : Result :=
  readStored .linesr size s

/-- RD.UARTCR (R145). -/
def execRdUartcr (size : AccessSize) (s : State) : Result :=
  readStored .uartcr size s

/-- RD.UARTSR (R146). -/
def execRdUartsr (size : AccessSize) (s : State) : Result :=
  readStored .uartsr size s

/-- RD.LINTCSR (R147). -/
def execRdLintcsr (size : AccessSize) (s : State) : Result :=
  readStored .lintcsr size s

/-- RD.LINOCR (R148). -/
def execRdLinocr (size : AccessSize) (s : State) : Result :=
  readStored .linocr size s

/-- RD.LINTOCR (R149). -/
def execRdLintocr (size : AccessSize) (s : State) : Result :=
  readStored .lintocr size s

/-- RD.LINFBRR (R150). -/
def execRdLinfbrr (size : AccessSize) (s : State) : Result :=
  readStored .linfbrr size s

/-- RD.LINIBRR (R151). -/
def execRdLinibrr (size : AccessSize) (s : State) : Result :=
  readStored .linibrr size s

/-- RD.LINCFR (R152). -/
def execRdLincfr (size : AccessSize) (s : State) : Result :=
  readStored .lincfr size s

/-- RD.LINCR2 (R153). -/
def execRdLincr2 (size : AccessSize) (s : State) : Result :=
  readStored .lincr2 size s

/-- RD.BIDR (R154). -/
def execRdBidr (size : AccessSize) (s : State) : Result :=
  readStored .bidr size s

/-- RD.BDRL (R155). -/
def execRdBdrl (size : AccessSize) (s : State) : Result :=
  readStored .bdrl size s

/-- RD.BDRM (R156): the low byte of the slot; nothing is re-armed. -/
def execRdBdrm (size : AccessSize) (s : State) : Result :=
  busRead size (reg s .bdrm &&& bdrmRMask) s

/-- RD.GCR (R157). -/
def execRdGcr (size : AccessSize) (s : State) : Result :=
  readStored .gcr size s

/-- RD.UARTPTO (R158). -/
def execRdUartpto (size : AccessSize) (s : State) : Result :=
  readStored .uartpto size s

/-- RD.UARTCTO (R159). -/
def execRdUartcto (size : AccessSize) (s : State) : Result :=
  readStored .uartcto size s

/-- RD.DMATXE (R160). -/
def execRdDmatxe (size : AccessSize) (s : State) : Result :=
  readStored .dmatxe size s

/-- RD.DMARXE (R161). -/
def execRdDmarxe (size : AccessSize) (s : State) : Result :=
  readStored .dmarxe size s

/-- RD.INVALID (R162): the `InvalidRegister` diagnostic, and the value 0. -/
def execRdInvalid (size : AccessSize) (offset : Offset) (s : State) : Result :=
  busRead size 0#32 (report s .invalidRegister offset)

end Sys2Proof.Machine
end

