-- ==== Sys2Proof/Machine/BusWrite.lean ====
section
/-! DEFINITION. The bus write operations, 40_bus_write.md R101 to R122, each inside the common procedure R100. -/

namespace Sys2Proof.Machine

/-- `WRITE_LINCR1(value)` (R101): the masked store, and the INIT-state flag of LINSR, set only. -/
def writeLincr1 (v : Word) (s : State) : State :=
  let s₁ := setReg s .lincr1 (v &&& cr1WMask)
  if hasBit (reg s₁ .lincr1) s₁.cfg.cr1Init then setReg s₁ .linsr (reg s₁ .linsr ||| s₁.cfg.lsrInit) else s₁

/-- `WRITE_LINIER(value)` (R102). -/
def writeLinier (v : Word) (s : State) : State :=
  setReg s .linier (v &&& ierWMask)

/-- `WRITE_UARTCR(value)` (R105): gated by INIT mode and UART mode, ORed in, never replaced; UART mode is evaluated again
after the UART bit is ORed in. -/
def writeUartcr (v : Word) (s : State) : State :=
  if inInit s then
    let s₁ := setReg s .uartcr (reg s .uartcr ||| (v &&& s.cfg.ucrUart))
    if uartMode s₁ then setReg s₁ .uartcr (reg s₁ .uartcr ||| v) else s₁
  else if uartMode s then setReg s .uartcr (reg s .uartcr ||| (v &&& ucrPostWMask))
  else s

/-- `WRITE_UARTSR(value)` (R106): write-1-to-clear over the low 16 bits; one `Resume`, before the clear, when a set
receive flag is acknowledged. -/
def writeUartsr (v : Word) (s : State) : State :=
  let clear := v &&& usrWMask
  let s₁ := if acknowledgesReceive clear s then emit s .resume else s
  setReg s₁ .uartsr (reg s₁ .uartsr &&& ~~~clear)

/-- `WRITE_BDRL(value)` (R115): the full store, the synchronous push of one byte, then transmit complete at once. -/
def writeBdrl (v : Word) (s : State) : State :=
  let s₁ := emit (setReg s .bdrl v) (.txByte (charByte v))
  setReg s₁ .uartsr (reg s₁ .uartsr ||| s₁.cfg.usrTbe)

/-- `WRITE_INVALID(offset)` (R122): the `InvalidRegister` diagnostic, no register changes. -/
def writeInvalid (offset : Offset) (s : State) : State :=
  report s .invalidRegister offset

/-- WR.LINCR1 (R101). -/
def execWrLincr1 (size : AccessSize) (data : Word) (s : State) : Result :=
  busWrite size data writeLincr1 s

/-- WR.LINIER (R102). -/
def execWrLinier (size : AccessSize) (data : Word) (s : State) : Result :=
  busWrite size data writeLinier s

/-- WR.LINSR (R103): an inert register. -/
def execWrLinsr (size : AccessSize) (lane : Lane) (data : Word) (s : State) : Result :=
  busWrite size data (storeInert .linsr (regOffset .linsr lane)) s

/-- WR.LINESR (R104): an inert register. -/
def execWrLinesr (size : AccessSize) (lane : Lane) (data : Word) (s : State) : Result :=
  busWrite size data (storeInert .linesr (regOffset .linesr lane)) s

/-- WR.UARTCR (R105). -/
def execWrUartcr (size : AccessSize) (data : Word) (s : State) : Result :=
  busWrite size data writeUartcr s

/-- WR.UARTSR (R106). -/
def execWrUartsr (size : AccessSize) (data : Word) (s : State) : Result :=
  busWrite size data writeUartsr s

/-- WR.LINTCSR (R107): an inert register. -/
def execWrLintcsr (size : AccessSize) (lane : Lane) (data : Word) (s : State) : Result :=
  busWrite size data (storeInert .lintcsr (regOffset .lintcsr lane)) s

/-- WR.LINOCR (R108): an inert register. -/
def execWrLinocr (size : AccessSize) (lane : Lane) (data : Word) (s : State) : Result :=
  busWrite size data (storeInert .linocr (regOffset .linocr lane)) s

/-- WR.LINTOCR (R109): an inert register. -/
def execWrLintocr (size : AccessSize) (lane : Lane) (data : Word) (s : State) : Result :=
  busWrite size data (storeInert .lintocr (regOffset .lintocr lane)) s

/-- WR.LINFBRR (R110): an inert register. -/
def execWrLinfbrr (size : AccessSize) (lane : Lane) (data : Word) (s : State) : Result :=
  busWrite size data (storeInert .linfbrr (regOffset .linfbrr lane)) s

/-- WR.LINIBRR (R111): an inert register. -/
def execWrLinibrr (size : AccessSize) (lane : Lane) (data : Word) (s : State) : Result :=
  busWrite size data (storeInert .linibrr (regOffset .linibrr lane)) s

/-- WR.LINCFR (R112): an inert register. -/
def execWrLincfr (size : AccessSize) (lane : Lane) (data : Word) (s : State) : Result :=
  busWrite size data (storeInert .lincfr (regOffset .lincfr lane)) s

/-- WR.LINCR2 (R113): an inert register. -/
def execWrLincr2 (size : AccessSize) (lane : Lane) (data : Word) (s : State) : Result :=
  busWrite size data (storeInert .lincr2 (regOffset .lincr2 lane)) s

/-- WR.BIDR (R114): an inert register. -/
def execWrBidr (size : AccessSize) (lane : Lane) (data : Word) (s : State) : Result :=
  busWrite size data (storeInert .bidr (regOffset .bidr lane)) s

/-- WR.BDRL (R115). -/
def execWrBdrl (size : AccessSize) (data : Word) (s : State) : Result :=
  busWrite size data writeBdrl s

/-- WR.BDRM (R116): an inert register. -/
def execWrBdrm (size : AccessSize) (lane : Lane) (data : Word) (s : State) : Result :=
  busWrite size data (storeInert .bdrm (regOffset .bdrm lane)) s

/-- WR.GCR (R117): an inert register. -/
def execWrGcr (size : AccessSize) (lane : Lane) (data : Word) (s : State) : Result :=
  busWrite size data (storeInert .gcr (regOffset .gcr lane)) s

/-- WR.UARTPTO (R118): an inert register. -/
def execWrUartpto (size : AccessSize) (lane : Lane) (data : Word) (s : State) : Result :=
  busWrite size data (storeInert .uartpto (regOffset .uartpto lane)) s

/-- WR.UARTCTO (R119): an inert register. -/
def execWrUartcto (size : AccessSize) (lane : Lane) (data : Word) (s : State) : Result :=
  busWrite size data (storeInert .uartcto (regOffset .uartcto lane)) s

/-- WR.DMATXE (R120): an inert register. -/
def execWrDmatxe (size : AccessSize) (lane : Lane) (data : Word) (s : State) : Result :=
  busWrite size data (storeInert .dmatxe (regOffset .dmatxe lane)) s

/-- WR.DMARXE (R121): an inert register. -/
def execWrDmarxe (size : AccessSize) (lane : Lane) (data : Word) (s : State) : Result :=
  busWrite size data (storeInert .dmarxe (regOffset .dmarxe lane)) s

/-- WR.INVALID (R122): the value is discarded; `UpdateIRQ()` of R100 still runs (D11; log 11). -/
def execWrInvalid (size : AccessSize) (offset : Offset) (data : Word) (s : State) : Result :=
  busWrite size data (fun _ => writeInvalid offset) s

end Sys2Proof.Machine
end

