-- ==== Sys2Proof/Machine/Lifecycle.lean ====
section
/-! DEFINITION. The reset phases and post-load reconciliation, 70_reset_and_hazards.md R231 to R235. -/

namespace Sys2Proof.Machine

/-- RST.ENTER (R231): "zero the entire register file", then the power-on values; the line keeps its level and no event is
emitted. -/
def execRstEnter (s : State) : Result :=
  .next (loadRegs (loadRegs (answerWith s .nothing) (fileOf fun _ => 0#32)) (fileOf powerOn))

/-- RST.HOLD (R232): transmit-buffer-empty is set; the line is not recomputed. -/
def execRstHold (s : State) : Result :=
  .next (setReg (answerWith s .nothing) .uartsr (reg s .uartsr ||| s.cfg.usrTbe))

/-- RST.EXIT (R233): interrupts first, then the resume notification, unconditionally. -/
def execRstExit (s : State) : Result :=
  .next (emit (updateIRQ (answerWith s .nothing)) .resume)

/-- POSTLOAD (R235): the registers become the record's words, with no mask and no `Resume`, and the line is recomputed.
A record that does not have the format of R236 is refused (D17). -/
def execPostload (s : State) : Result :=
  match s.record with
  | none => .refused .recordMissing
  | some r =>
    match recordRegs s.cfg r with
    | none => .refused .recordFormat
    | some f => .next (updateIRQ (loadRegs (answerWith s .nothing) f))

end Sys2Proof.Machine
end

