-- ==== Sys2Proof/Machine/Transport.lean ====
section
/-! DEFINITION. The operations the serial transport calls, 42_transport.md R171 and R172. No mode gates them (R178). -/

namespace Sys2Proof.Machine

/-- GATE (R171): a query; no register changes, no event is emitted and `UpdateIRQ()` does not run. -/
def execGate (s : State) : Result :=
  .next (answerWith s (.accept (gateOpen s)))

/-- The registers after `RxDeliver(b)` (R172): the low byte of BDRM is replaced, bits 31:8 are kept (D13), and both
receive flags are set. -/
def deliver (b : Byte) (s : State) : State :=
  let s₁ := setReg s .bdrm ((reg s .bdrm &&& ~~~byteMask) ||| b.setWidth 32)
  setReg s₁ .uartsr (reg s₁ .uartsr ||| s₁.cfg.usrRbf ||| s₁.cfg.usrRmb)

/-- RX (R172), the block's own update: "the block itself does not test the gate". That the transport never delivers while
the gate is false (R175) is checked where the step takes the transport's call (log 6). -/
def execRx (b : Byte) (s : State) : Result :=
  .next (updateIRQ (deliver b (answerWith s .nothing)))

end Sys2Proof.Machine
end

