-- ==== Sys2Proof/Machine/Dispatch.lean ====
section
/-! DEFINITION. One arm for each operation of the opcode map. -/

namespace Sys2Proof.Machine

def exec (i : Instr) (s : State) : Host.Outcome State Fault Refusal :=
  match i with
  | .rdLincr1 size _ => Sys2Proof.Machine.execRdLincr1 size s
  | .rdLinier size _ => Sys2Proof.Machine.execRdLinier size s
  | .rdLinsr size _ => Sys2Proof.Machine.execRdLinsr size s
  | .rdLinesr size _ => Sys2Proof.Machine.execRdLinesr size s
  | .rdUartcr size _ => Sys2Proof.Machine.execRdUartcr size s
  | .rdUartsr size _ => Sys2Proof.Machine.execRdUartsr size s
  | .rdLintcsr size _ => Sys2Proof.Machine.execRdLintcsr size s
  | .rdLinocr size _ => Sys2Proof.Machine.execRdLinocr size s
  | .rdLintocr size _ => Sys2Proof.Machine.execRdLintocr size s
  | .rdLinfbrr size _ => Sys2Proof.Machine.execRdLinfbrr size s
  | .rdLinibrr size _ => Sys2Proof.Machine.execRdLinibrr size s
  | .rdLincfr size _ => Sys2Proof.Machine.execRdLincfr size s
  | .rdLincr2 size _ => Sys2Proof.Machine.execRdLincr2 size s
  | .rdBidr size _ => Sys2Proof.Machine.execRdBidr size s
  | .rdBdrl size _ => Sys2Proof.Machine.execRdBdrl size s
  | .rdBdrm size _ => Sys2Proof.Machine.execRdBdrm size s
  | .rdGcr size _ => Sys2Proof.Machine.execRdGcr size s
  | .rdUartpto size _ => Sys2Proof.Machine.execRdUartpto size s
  | .rdUartcto size _ => Sys2Proof.Machine.execRdUartcto size s
  | .rdDmatxe size _ => Sys2Proof.Machine.execRdDmatxe size s
  | .rdDmarxe size _ => Sys2Proof.Machine.execRdDmarxe size s
  | .wrLincr1 size _ data => Sys2Proof.Machine.execWrLincr1 size data s
  | .wrLinier size _ data => Sys2Proof.Machine.execWrLinier size data s
  | .wrLinsr size lane data => Sys2Proof.Machine.execWrLinsr size lane data s
  | .wrLinesr size lane data => Sys2Proof.Machine.execWrLinesr size lane data s
  | .wrUartcr size _ data => Sys2Proof.Machine.execWrUartcr size data s
  | .wrUartsr size _ data => Sys2Proof.Machine.execWrUartsr size data s
  | .wrLintcsr size lane data => Sys2Proof.Machine.execWrLintcsr size lane data s
  | .wrLinocr size lane data => Sys2Proof.Machine.execWrLinocr size lane data s
  | .wrLintocr size lane data => Sys2Proof.Machine.execWrLintocr size lane data s
  | .wrLinfbrr size lane data => Sys2Proof.Machine.execWrLinfbrr size lane data s
  | .wrLinibrr size lane data => Sys2Proof.Machine.execWrLinibrr size lane data s
  | .wrLincfr size lane data => Sys2Proof.Machine.execWrLincfr size lane data s
  | .wrLincr2 size lane data => Sys2Proof.Machine.execWrLincr2 size lane data s
  | .wrBidr size lane data => Sys2Proof.Machine.execWrBidr size lane data s
  | .wrBdrl size _ data => Sys2Proof.Machine.execWrBdrl size data s
  | .wrBdrm size lane data => Sys2Proof.Machine.execWrBdrm size lane data s
  | .wrGcr size lane data => Sys2Proof.Machine.execWrGcr size lane data s
  | .wrUartpto size lane data => Sys2Proof.Machine.execWrUartpto size lane data s
  | .wrUartcto size lane data => Sys2Proof.Machine.execWrUartcto size lane data s
  | .wrDmatxe size lane data => Sys2Proof.Machine.execWrDmatxe size lane data s
  | .wrDmarxe size lane data => Sys2Proof.Machine.execWrDmarxe size lane data s
  | .rdInvalid size offset => Sys2Proof.Machine.execRdInvalid size offset s
  | .wrInvalid size offset data => Sys2Proof.Machine.execWrInvalid size offset data s
  | .gate => Sys2Proof.Machine.execGate s
  | .rx byte => Sys2Proof.Machine.execRx byte s
  | .rstEnter => Sys2Proof.Machine.execRstEnter s
  | .rstHold => Sys2Proof.Machine.execRstHold s
  | .rstExit => Sys2Proof.Machine.execRstExit s
  | .postload => Sys2Proof.Machine.execPostload s

end Sys2Proof.Machine
end

