-- ==== Sys2Proof/Machine/Step.lean ====
section
/-! DEFINITION. One step of the machine: the block runs the next operation its collaborators have called, as one atomic
step (00_scope.md R15, 20_memory.md R68). With no call pending it does nothing (log 5). -/

namespace Sys2Proof.Machine

/-- One step. -/
def step (s : State) : Host.Outcome State Fault Refusal :=
  match nextOperation s with
  | none => .next s
  | some (.error r) => .refused r
  | some (.ok (i, t)) => exec i t

/-- The state whose next step runs the operation of the given bits (`W` in bits 31..0, `D` in bits 63..32): its call is
put first, in the reset phase in which it may be called (R230; log 5). The record a POSTLOAD takes with it is a save of
the current registers, which has the format of R236. -/
def State.withFetchWord (s : State) (nbits w : Nat) : State :=
  withCall (readyFor s (tableW nbits w) (tableD nbits w))
    ⟨tableW nbits w, tableD nbits w, some (saveSnapshot s)⟩

end Sys2Proof.Machine
end

