-- ==== Sys2Proof/Safety.lean ====
section
/-! DEFINITION. The terms claims are stated in: what a safe state is, what an operation leaves
alone, and the spec's own tables (the line of R200, the flow control of R177, the power-on column of R21) written beside the
machine, not with its functions. -/

namespace Sys2Proof.Machine

/-- `data[8*size-1:0]` zero-extended to 32 bits (20_memory.md R64), as a number. -/
def lowPart (size : AccessSize) (v : Word) : Word :=
  BitVec.ofNat 32 (v.toNat % 2 ^ (8 * size.bytes))

/-- "bit `m` is set in `v`" (00_scope.md R12). -/
abbrev BitIn (m v : Word) : Prop :=
  v &&& m ≠ 0#32

/-- "Interrupt line is asserted if and only if (receive-interrupt-enabled AND receive-buffer-full) OR
(transmit-interrupt-enabled AND transmit-buffer-empty)" (60_exceptions.md R200). -/
abbrev LineAsserted (s : State) : Prop :=
  (BitIn s.cfg.ierRxie (reg s .linier) ∧ BitIn s.cfg.usrRbf (reg s .uartsr)) ∨
  (BitIn s.cfg.ierTxie (reg s .linier) ∧ BitIn s.cfg.usrTbe (reg s .uartsr))

/-- The line shows the current registers (60_exceptions.md R203). -/
abbrev LineCurrent (s : State) : Prop :=
  s.irq = true ↔ LineAsserted s

/-- `InInit` (10_state.md R52). -/
abbrev InitMode (s : State) : Prop :=
  BitIn s.cfg.cr1Init (reg s .lincr1)

/-- `UartMode` (10_state.md R53). -/
abbrev UartModeOn (s : State) : Prop :=
  BitIn s.cfg.ucrUart (reg s .uartcr)

/-- The acceptance gate is closed: a receive flag is set (42_transport.md R171). -/
abbrev GateClosed (s : State) : Prop :=
  BitIn s.cfg.usrRbf (reg s .uartsr) ∨ BitIn s.cfg.usrRmb (reg s .uartsr)

/-- LINCR1 holds nothing outside `CR1_WMASK | CR1_FORCE` (10_state.md R49). -/
abbrev Lincr1Legal (s : State) : Prop :=
  reg s .lincr1 &&& ~~~(0x0001DF27#32 ||| 0x00000080#32) = 0#32

/-- LINIER holds nothing outside `IER_WMASK` (41_bus_read.md R142: "bits 31:16 read 0 after any write"). -/
abbrev LinierLegal (s : State) : Prop :=
  reg s .linier &&& ~~~0x0000FFFF#32 = 0#32

/-- UARTSR holds nothing but the three flags (10_state.md R54). -/
abbrev UartsrLegal (s : State) : Prop :=
  reg s .uartsr &&& ~~~(s.cfg.usrRbf ||| s.cfg.usrRmb ||| s.cfg.usrTbe) = 0#32

/-- The registers hold what they can hold after a reset and absent a snapshot load (10_state.md R49, R54). -/
abbrev RegistersLegal (s : State) : Prop :=
  Lincr1Legal s ∧ LinierLegal s ∧ UartsrLegal s

/-- No pending call loads a snapshot. -/
abbrev NoLoadPending (s : State) : Prop :=
  ∀ c ∈ s.calls, decode c.w c.d ≠ .ok .postload

/-- Every register outside the list is unchanged. -/
abbrev RegsKept (written : List Reg) (s t : State) : Prop :=
  ∀ r, r ∉ written → reg t r = reg s r

/-- The parameters, the pending calls, the record at hand and the reset phase are unchanged. -/
abbrev RestKept (s t : State) : Prop :=
  t.cfg = s.cfg ∧ t.calls = s.calls ∧ t.record = s.record ∧ t.phase = s.phase

/-- The operation emitted `es`, then re-drove the line to the level of the registers it left (R200, R201). -/
abbrev Redriven (es : List Event) (s t : State) : Prop :=
  t.trace = s.trace ++ es ++ [.irqLevel t.irq] ∧ LineCurrent t

/-- Nothing was emitted and the line keeps its level. -/
abbrev LineUntouched (s t : State) : Prop :=
  t.trace = s.trace ∧ t.irq = s.irq

/-- The operation word has this kind and its offset lies in this range, whatever the size (30_encoding.md R86). -/
abbrev SpelledAt (kind lo : Nat) (i : Instr) : Prop :=
  (encode i).1.toNat / 2 ^ 29 = kind ∧ lo ≤ (encode i).1.toNat % 4096 ∧ (encode i).1.toNat % 4096 ≤ lo + 3

/-- How many resume notifications the trace holds. -/
def resumeCount (s : State) : Nat :=
  s.trace.count .resume

/-- The bytes pushed to the transport, in order. -/
def sentBytes (s : State) : List Byte :=
  s.trace.filterMap fun
    | .txByte b => some b
    | _ => none

/-- The levels the line was driven to, in order. -/
def drivenLevels (s : State) : List Bool :=
  s.trace.filterMap fun
    | .irqLevel l => some l
    | _ => none

/-- The points of 60_exceptions.md R202 at which `UpdateIRQ()` runs: bus writes, delivery, reset exit, post-load. -/
def recomputesLine : Instr → Bool
  | .rdLincr1 _ _ => false
  | .rdLinier _ _ => false
  | .rdLinsr _ _ => false
  | .rdLinesr _ _ => false
  | .rdUartcr _ _ => false
  | .rdUartsr _ _ => false
  | .rdLintcsr _ _ => false
  | .rdLinocr _ _ => false
  | .rdLintocr _ _ => false
  | .rdLinfbrr _ _ => false
  | .rdLinibrr _ _ => false
  | .rdLincfr _ _ => false
  | .rdLincr2 _ _ => false
  | .rdBidr _ _ => false
  | .rdBdrl _ _ => false
  | .rdBdrm _ _ => false
  | .rdGcr _ _ => false
  | .rdUartpto _ _ => false
  | .rdUartcto _ _ => false
  | .rdDmatxe _ _ => false
  | .rdDmarxe _ _ => false
  | .wrLincr1 _ _ _ => true
  | .wrLinier _ _ _ => true
  | .wrLinsr _ _ _ => true
  | .wrLinesr _ _ _ => true
  | .wrUartcr _ _ _ => true
  | .wrUartsr _ _ _ => true
  | .wrLintcsr _ _ _ => true
  | .wrLinocr _ _ _ => true
  | .wrLintocr _ _ _ => true
  | .wrLinfbrr _ _ _ => true
  | .wrLinibrr _ _ _ => true
  | .wrLincfr _ _ _ => true
  | .wrLincr2 _ _ _ => true
  | .wrBidr _ _ _ => true
  | .wrBdrl _ _ _ => true
  | .wrBdrm _ _ _ => true
  | .wrGcr _ _ _ => true
  | .wrUartpto _ _ _ => true
  | .wrUartcto _ _ _ => true
  | .wrDmatxe _ _ _ => true
  | .wrDmarxe _ _ _ => true
  | .rdInvalid _ _ => false
  | .wrInvalid _ _ _ => true
  | .gate => false
  | .rx _ => true
  | .rstEnter => false
  | .rstHold => false
  | .rstExit => true
  | .postload => true

/-- The power-on column of 10_state.md R21. -/
def powerOnTable : List (Reg × Word) :=
  [(.lincr1, 0x00000082#32), (.linier, 0x00000000#32), (.linsr, 0x00000040#32), (.linesr, 0x00000000#32),
   (.uartcr, 0x00000000#32), (.uartsr, 0x00000000#32), (.lintcsr, 0x00000200#32), (.linocr, 0x0000FFFF#32),
   (.lintocr, 0x00000E2C#32), (.linfbrr, 0x00000000#32), (.linibrr, 0x00000000#32), (.lincfr, 0x00000000#32),
   (.lincr2, 0x00006000#32), (.bidr, 0x00000000#32), (.bdrl, 0x00000000#32), (.bdrm, 0x00000000#32),
   (.gcr, 0x00000000#32), (.uartpto, 0x00000FFF#32), (.uartcto, 0x00000000#32), (.dmatxe, 0x00000000#32),
   (.dmarxe, 0x00000000#32)]

/-- The registers with no read rule of their own, with their lowest offset and their read (41_bus_read.md R140). -/
def storedReads : List (Reg × Nat × (AccessSize → Lane → Instr)) :=
  [(.linier, 0x004, .rdLinier),
   (.linsr, 0x008, .rdLinsr),
   (.linesr, 0x00C, .rdLinesr),
   (.uartcr, 0x010, .rdUartcr),
   (.uartsr, 0x014, .rdUartsr),
   (.lintcsr, 0x018, .rdLintcsr),
   (.linocr, 0x01C, .rdLinocr),
   (.lintocr, 0x020, .rdLintocr),
   (.linfbrr, 0x024, .rdLinfbrr),
   (.linibrr, 0x028, .rdLinibrr),
   (.lincfr, 0x02C, .rdLincfr),
   (.lincr2, 0x030, .rdLincr2),
   (.bidr, 0x034, .rdBidr),
   (.bdrl, 0x038, .rdBdrl),
   (.gcr, 0x040, .rdGcr),
   (.uartpto, 0x044, .rdUartpto),
   (.uartcto, 0x048, .rdUartcto),
   (.dmatxe, 0x04C, .rdDmatxe),
   (.dmarxe, 0x050, .rdDmarxe)]

/-- The registers the source treats as unimplemented on write, with their lowest offset and their write
(60_exceptions.md R210). -/
def inertWrites : List (Reg × Nat × (AccessSize → Lane → Word → Instr)) :=
  [(.linsr, 0x008, .wrLinsr),
   (.linesr, 0x00C, .wrLinesr),
   (.lintcsr, 0x018, .wrLintcsr),
   (.linocr, 0x01C, .wrLinocr),
   (.lintocr, 0x020, .wrLintocr),
   (.linfbrr, 0x024, .wrLinfbrr),
   (.linibrr, 0x028, .wrLinibrr),
   (.lincfr, 0x02C, .wrLincfr),
   (.lincr2, 0x030, .wrLincr2),
   (.bidr, 0x034, .wrBidr),
   (.bdrm, 0x03C, .wrBdrm),
   (.gcr, 0x040, .wrGcr),
   (.uartpto, 0x044, .wrUartpto),
   (.uartcto, 0x048, .wrUartcto),
   (.dmatxe, 0x04C, .wrDmatxe),
   (.dmarxe, 0x050, .wrDmarxe)]

/-- What a read returns of a stored value: the read rules R141 and R156, and the default R140. -/
def readView : Reg → Word → Word
  | .lincr1, v => v ||| 0x00000080#32
  | .bdrm, v => v &&& 0x000000FF#32
  | _, v => v

/-- The receive flow-control states of 42_transport.md R177, the pair (RBF, RMB). -/
inductive FlowState where
  | opened
  | full
  | halfB
  | halfM
deriving DecidableEq, Repr

/-- The flow-control state of the block. -/
def flowState (s : State) : FlowState :=
  if BitIn s.cfg.usrRbf (reg s .uartsr) then
    if BitIn s.cfg.usrRmb (reg s .uartsr) then .full else .halfB
  else
    if BitIn s.cfg.usrRmb (reg s .uartsr) then .halfM else .opened

/-- The table of R177 for a UARTSR write, by which of the two receive flags it clears: the next state and the number of
resume notifications. -/
def flowAfterClear : FlowState → (clearsRbf clearsRmb : Bool) → FlowState × Nat
  | .opened, _, _ => (.opened, 0)
  | .full, false, false => (.full, 0)
  | .full, true, false => (.halfM, 1)
  | .full, false, true => (.halfB, 1)
  | .full, true, true => (.opened, 1)
  | .halfB, false, false => (.halfB, 0)
  | .halfB, true, false => (.opened, 1)
  | .halfB, false, true => (.halfB, 0)
  | .halfB, true, true => (.opened, 1)
  | .halfM, false, false => (.halfM, 0)
  | .halfM, true, false => (.halfM, 0)
  | .halfM, false, true => (.opened, 1)
  | .halfM, true, true => (.opened, 1)

/-- What holds between operations in each phase (60_exceptions.md R203, 70_reset_and_hazards.md R231, R232): outside a
reset the line is current; inside one the registers are those the phase left. -/
abbrev PhaseSafe (s : State) : Prop :=
  match s.phase with
  | .running => LineCurrent s
  | .entered => ∀ p ∈ powerOnTable, reg s p.1 = p.2
  | .held => ∀ p ∈ powerOnTable, reg s p.1 = if p.1 = .uartsr then s.cfg.usrTbe else p.2

end Sys2Proof.Machine
end

