-- ==== Sys2Proof/Certificates/Slice0/Obligations.lean ====
section
/-! DEFINITION. The statements for the provers. Each docstring says which rule of spec/ it formalises. Statements about
every state quantify over the parameters too, since the state carries them (log 1); where a rule needs the constraints of
00_scope.md R10 the hypothesis is `s.cfg.ok = true`. -/

open Sys2Proof Sys2Proof.Machine

/-- Decoding the two words of any well-formed operation gives that operation back (R81, R85, R86, R83, R84). -/
def Obligations.EncodedOperationDecodesToItself : Prop :=
  ∀ i : Instr, i.wellFormed = true → decode (encode i).1 (encode i).2 = .ok i

/-- A pair the decoder accepts is exactly the encoding of the well-formed operation it names (R81, R85, R87). -/
def Obligations.AcceptedPairIsTheEncodingOfItsOperation : Prop :=
  ∀ (w d : Word) (i : Instr), decode w d = .ok i → i.wellFormed = true ∧ encode i = (w, d)

/-- decode refuses a pair exactly when R85 does (R85, R87, R81). -/
def Obligations.DecoderRefusesExactlyTheReservedPairs : Prop :=
  ∀ w d : Word,
    (∃ form, decode w d = .error form) ↔
      (w.toNat / 2 ^ 26 % 8 ≠ 0 ∨ w.toNat / 2 ^ 12 % 4096 ≠ 0 ∨
       (w.toNat / 2 ^ 29 = 0 ∧ d.toNat ≠ 0) ∨
       (w.toNat / 2 ^ 29 = 1 ∧ d.toNat / 2 ^ (8 * (w.toNat / 2 ^ 24 % 4 + 1)) ≠ 0) ∨
       (2 ≤ w.toNat / 2 ^ 29 ∧ w.toNat % 2 ^ 26 ≠ 0) ∨
       (w.toNat / 2 ^ 29 = 3 ∧ d.toNat / 2 ^ 8 ≠ 0) ∨
       (2 ≤ w.toNat / 2 ^ 29 ∧ w.toNat / 2 ^ 29 ≠ 3 ∧ d.toNat ≠ 0))

/-- A decoded bus operation carries the offset, size and register its word spells (R62, R63, R83, R85). -/
def Obligations.DecodedAccessHasTheOffsetSizeAndRegisterOfItsWord : Prop :=
  ∀ (w d : Word) (i : Instr) (offset : Offset) (size : AccessSize),
    decode w d = .ok i → busAccess i = some (offset, size) →
      offset.toNat = w.toNat % 4096 ∧ size.bytes = w.toNat / 2 ^ 24 % 4 + 1 ∧
      ((w.toNat / 2 ^ 29 = 0 ∧
          ((∃ r, regIndex r = offset.toNat / 4 ∧ i = readOf r size (BitVec.ofNat 2 offset.toNat)) ∨
           (20 < offset.toNat / 4 ∧ i = .rdInvalid size offset))) ∨
       (w.toNat / 2 ^ 29 = 1 ∧
          ((∃ r, regIndex r = offset.toNat / 4 ∧ i = writeOf r size (BitVec.ofNat 2 offset.toNat) d) ∨
           (20 < offset.toNat / 4 ∧ i = .wrInvalid size offset d))))

/-- Words written out from the encoding decode to the operations they stand for (R85, R86, 95_test_vectors.md L2 §13). -/
def Obligations.SampleWordsDecodeToTheirOperations : Prop :=
  decode 0x03000014#32 0x0#32 = .ok (.rdUartsr .four 0#2) ∧
  decode 0x21000016#32 0xFFFF#32 = .ok (.wrUartsr .two 2#2 0xFFFF#32) ∧
  decode 0x23000054#32 0x1#32 = .ok (.wrInvalid .four 0x054#12 0x1#32) ∧
  decode 0x02000FFC#32 0x0#32 = .ok (.rdInvalid .three 0xFFC#12) ∧
  decode 0x60000000#32 0xFF#32 = .ok (.rx 0xFF#8) ∧
  decode 0x80000000#32 0x0#32 = .ok .rstEnter ∧
  decode 0xE0000000#32 0x0#32 = .ok .postload

/-- A step runs the operation that the first pending call decodes to (R15, R47, R68, R73, R85, R230). The model's own
choice in it: log 5, log 7. -/
def Obligations.StepRunsTheDecodedCall : Prop :=
  ∀ (s : State) (c : Call) (rest : List Call) (i : Instr) (ph : ResetPhase),
    s.calls = c :: rest → decode c.w c.d = .ok i → phaseAfter s.phase i = some ph → notPermitted i s = none →
      step s = exec i { s with calls := rest, record := c.record, phase := ph }

/-- Which decoded calls the step turns away: one out of the order of a reset, a delivery with the gate closed, an
access the bus never presents (R175, R80, R230, 92_eei_decisions.md D6, 92_eei_decisions.md D12,
92_eei_decisions.md D14, R62, R64). R66 is an inference the spec marks as its own. The model's own choice in it:
log 3, log 6, log 7. -/
def Obligations.StepTurnsAwayExactlyTheCallsNoCollaboratorMakes : Prop :=
  (∀ (i : Instr) (s : State),
    notPermitted i s ≠ none ↔
      ((∃ b, i = .rx b) ∧ GateClosed s) ∨
      (∃ offset size, busAccess i = some (offset, size) ∧ s.cfg.admitsUnaligned = false ∧
        (offset.toNat % size.bytes ≠ 0 ∨ 4 < offset.toNat % 4 + size.bytes))) ∧
  (∀ (i : Instr) (ph : ResetPhase),
    phaseAfter ph i = none ↔
      (ph = .running ∧ (i = .rstHold ∨ i = .rstExit)) ∨ (ph = .entered ∧ i ≠ .rstHold) ∨
      (ph = .held ∧ i ≠ .rstExit)) ∧
  (∀ (s : State) (c : Call) (rest : List Call) (i : Instr), s.calls = c :: rest → decode c.w c.d = .ok i →
    (step s = .refused .resetOrderBroken ↔ phaseAfter s.phase i = none) ∧
    (phaseAfter s.phase i ≠ none →
      (step s = .refused .deliveryWhileGateClosed ↔ (∃ b, i = .rx b) ∧ GateClosed s) ∧
      (step s = .refused .unalignedNotPresented ↔
        ∃ offset size, busAccess i = some (offset, size) ∧ s.cfg.admitsUnaligned = false ∧
          (offset.toNat % size.bytes ≠ 0 ∨ 4 < offset.toNat % 4 + size.bytes)) ∧
      (notPermitted i s = none → i ≠ .postload → ∃ t, step s = .next t)))

/-- The transport has no delivery move while the gate is false, and has one while it is true (R175,
92_eei_decisions.md D12). -/
def Obligations.DeliveryWhileGateIsClosedHasNoStep : Prop :=
  ∀ (s : State) (c : Call) (rest : List Call) (b : Byte),
    s.phase = .running → s.calls = c :: rest → decode c.w c.d = .ok (.rx b) →
      (GateClosed s → step s = .refused .deliveryWhileGateClosed) ∧
      (¬ GateClosed s → step s = exec (.rx b) { s with calls := rest, record := c.record })

/-- A call whose pair is reserved has no step; with no call pending nothing changes (R87, R85). The model's own choice
in it: log 5. -/
def Obligations.ReservedPairHasNoStep : Prop :=
  (∀ (s : State) (c : Call) (rest : List Call) (form : ReservedForm),
    s.calls = c :: rest → decode c.w c.d = .error form → step s = .refused (.reservedEncoding form)) ∧
  (∀ s : State, s.calls = [] → step s = .next s)

/-- No operation faults, and every one but POSTLOAD answers a next state from every state (R211, R235, R236, R80). The
model's own choice in it: log 8. -/
def Obligations.EveryOperationButPostloadCompletes : Prop :=
  ∀ (i : Instr) (s : State),
    (i ≠ .postload → ∃ t, exec i s = .next t) ∧
    ((∃ t, exec .postload s = .next t) ↔
      ∃ r, s.record = some r ∧ r.version = s.cfg.snapshotVersion ∧ r.words.length = 21)

/-- WR.LINCR1: the masked store, the sticky INIT-state flag, and nothing else (R101). -/
def Obligations.WriteControl1StoresMaskedValueAndSetsInitFlag : Prop :=
  ∀ (size : AccessSize) (lane : Lane) (data : Word) (s : State),
    SpelledAt 1 0x000 (.wrLincr1 size lane data) ∧
    ∃ t, exec (.wrLincr1 size lane data) s = .next t ∧
      reg t .lincr1 = lowPart size data &&& 0x0001DF27#32 ∧
      (BitIn s.cfg.cr1Init (reg t .lincr1) → reg t .linsr = reg s .linsr ||| s.cfg.lsrInit) ∧
      (¬ BitIn s.cfg.cr1Init (reg t .lincr1) → reg t .linsr = reg s .linsr) ∧
      RegsKept [.lincr1, .linsr] s t ∧ Redriven [] s t ∧ t.answer = .nothing ∧ RestKept s t

/-- WR.LINIER: the masked store, and the line re-driven from the new enables (R102). -/
def Obligations.WriteInterruptEnableStoresLow16Bits : Prop :=
  ∀ (size : AccessSize) (lane : Lane) (data : Word) (s : State),
    SpelledAt 1 0x004 (.wrLinier size lane data) ∧
    ∃ t, exec (.wrLinier size lane data) s = .next t ∧
      reg t .linier = lowPart size data &&& 0x0000FFFF#32 ∧
      RegsKept [.linier] s t ∧ Redriven [] s t ∧ t.answer = .nothing ∧ RestKept s t

/-- WR.UARTCR: what each of the mode cases ORs in (R105). -/
def Obligations.WriteUartControlIsModeGatedAndAccumulates : Prop :=
  ∀ (size : AccessSize) (lane : Lane) (data : Word) (s : State),
    SpelledAt 1 0x010 (.wrUartcr size lane data) ∧
    ∃ t, exec (.wrUartcr size lane data) s = .next t ∧
      (InitMode s → UartModeOn s ∨ BitIn s.cfg.ucrUart (lowPart size data) →
        reg t .uartcr = reg s .uartcr ||| lowPart size data) ∧
      (InitMode s → ¬ UartModeOn s → ¬ BitIn s.cfg.ucrUart (lowPart size data) → reg t .uartcr = reg s .uartcr) ∧
      (¬ InitMode s → UartModeOn s → reg t .uartcr = reg s .uartcr ||| (lowPart size data &&& 0x0070FC30#32)) ∧
      (¬ InitMode s → ¬ UartModeOn s → reg t .uartcr = reg s .uartcr) ∧
      RegsKept [.uartcr] s t ∧ Redriven [] s t ∧ t.answer = .nothing ∧ RestKept s t

/-- WR.UARTSR: write-1-to-clear over the low 16 bits, with one Resume when a set receive flag is acknowledged (R106). -/
def Obligations.WriteUartStatusClearsOnesAndNotifiesOnce : Prop :=
  ∀ (size : AccessSize) (lane : Lane) (data : Word) (s : State),
    SpelledAt 1 0x014 (.wrUartsr size lane data) ∧
    ∃ t, exec (.wrUartsr size lane data) s = .next t ∧
      reg t .uartsr = reg s .uartsr &&& ~~~(lowPart size data &&& 0x0000FFFF#32) ∧
      RegsKept [.uartsr] s t ∧
      Redriven
        (if (BitIn s.cfg.usrRbf (reg s .uartsr) ∧ BitIn s.cfg.usrRbf (lowPart size data &&& 0x0000FFFF#32)) ∨
            (BitIn s.cfg.usrRmb (reg s .uartsr) ∧ BitIn s.cfg.usrRmb (lowPart size data &&& 0x0000FFFF#32))
         then [.resume] else []) s t ∧
      t.answer = .nothing ∧ RestKept s t

/-- The sixteen inert writes (LINSR, LINESR, LINTCSR to BIDR, BDRM to DMARXE): the verbatim store and the diagnostic
(R123). -/
def Obligations.InertWriteStoresVerbatimAndReports : Prop :=
  ∀ p ∈ inertWrites, ∀ (size : AccessSize) (lane : Lane) (data : Word) (s : State),
    SpelledAt 1 p.2.1 (p.2.2 size lane data) ∧
    ∃ t, exec (p.2.2 size lane data) s = .next t ∧
      reg t p.1 = lowPart size data ∧ RegsKept [p.1] s t ∧
      Redriven [.diag .unimplementedRegister (BitVec.ofNat 12 (p.2.1 + lane.toNat))] s t ∧
      t.answer = .nothing ∧ RestKept s t

/-- WR.BDRL: the full store, one byte to the transport, transmit complete at once, in every mode (R115). -/
def Obligations.WriteTransmitBufferPushesOneByte : Prop :=
  ∀ (size : AccessSize) (lane : Lane) (data : Word) (s : State),
    SpelledAt 1 0x038 (.wrBdrl size lane data) ∧
    ∃ t, exec (.wrBdrl size lane data) s = .next t ∧
      reg t .bdrl = lowPart size data ∧ reg t .uartsr = reg s .uartsr ||| s.cfg.usrTbe ∧
      RegsKept [.bdrl, .uartsr] s t ∧ Redriven [.txByte (BitVec.ofNat 8 data.toNat)] s t ∧
      t.answer = .nothing ∧ RestKept s t

/-- WR.INVALID: the InvalidRegister diagnostic, no register changes, the line re-driven (R122, R100,
92_eei_decisions.md D11). -/
def Obligations.InvalidWriteReportsAndChangesNoRegister : Prop :=
  ∀ (size : AccessSize) (offset : Offset) (data : Word) (s : State),
    ((encode (.wrInvalid size offset data)).1.toNat / 2 ^ 29 = 1 ∧
      (encode (.wrInvalid size offset data)).1.toNat % 4096 = offset.toNat ∧
      (writeAt offset size data = .wrInvalid size offset data ↔ 20 < offset.toNat / 4)) ∧
    ∃ t, exec (.wrInvalid size offset data) s = .next t ∧
      RegsKept [] s t ∧ Redriven [.diag .invalidRegister offset] s t ∧ (LineCurrent s → t.irq = s.irq) ∧
      t.answer = .nothing ∧ RestKept s t

/-- The nineteen default reads: the stored value unchanged, its low bytes delivered, nothing written (R140, R64, R142,
R143, R144, R145, R146, R155). -/
def Obligations.DefaultReadReturnsTheStoredValue : Prop :=
  ∀ p ∈ storedReads, ∀ (size : AccessSize) (lane : Lane) (s : State),
    SpelledAt 0 p.2.1 (p.2.2 size lane) ∧
    exec (p.2.2 size lane) s = .next { s with answer := .value (reg s p.1) (lowPart size (reg s p.1)) }

/-- RD.LINCR1: bit 7 forced in the stored and the returned value, the line not recomputed (R141). -/
def Obligations.ReadControl1ForcesBit7InStoreAndResult : Prop :=
  (∀ (size : AccessSize) (lane : Lane) (s : State),
    SpelledAt 0 0x000 (.rdLincr1 size lane) ∧
    ∃ t, exec (.rdLincr1 size lane) s = .next t ∧
      reg t .lincr1 = reg s .lincr1 ||| 0x00000080#32 ∧ RegsKept [.lincr1] s t ∧
      t.answer = .value (reg t .lincr1) (lowPart size (reg t .lincr1)) ∧ BitIn 0x00000080#32 (reg t .lincr1) ∧
      LineUntouched s t ∧ RestKept s t) ∧
  (∀ (i : Instr) (s t : State), exec i s = .next t → BitIn 0x00000080#32 (reg s .lincr1) →
    (∀ size lane data, i ≠ .wrLincr1 size lane data) → i ≠ .rstEnter → i ≠ .postload →
      BitIn 0x00000080#32 (reg t .lincr1))

/-- RD.BDRM: the low byte, no flag cleared, no Resume, the same byte again; 0 until something stores one (R156). -/
def Obligations.ReadReceiveBufferReturnsLowByteAndRearmsNothing : Prop :=
  (∀ (size : AccessSize) (lane : Lane) (s : State),
    SpelledAt 0 0x03C (.rdBdrm size lane) ∧
    ∃ t, exec (.rdBdrm size lane) s = .next t ∧
      t = { s with answer := .value (reg s .bdrm &&& 0x000000FF#32) (lowPart size (reg s .bdrm &&& 0x000000FF#32)) } ∧
      exec (.rdBdrm size lane) t = .next t) ∧
  (∀ (size : AccessSize) (lane : Lane) (cfg : Params), exec (.rdBdrm size lane) (State.resetWith cfg) =
    .next { State.resetWith cfg with answer := .value 0#32 0#32 }) ∧
  (∀ (i : Instr) (s t : State), exec i s = .next t →
    (∀ b, i ≠ .rx b) → (∀ size lane data, i ≠ .wrBdrm size lane data) → i ≠ .postload →
      reg t .bdrm &&& 0x000000FF#32 = reg s .bdrm &&& 0x000000FF#32 ∨ (i = .rstEnter ∧ reg t .bdrm = 0#32))

/-- RD.INVALID: the InvalidRegister diagnostic and the value 0, no register changes (R162). -/
def Obligations.InvalidReadReportsAndReturnsZero : Prop :=
  ∀ (size : AccessSize) (offset : Offset) (s : State),
    ((encode (.rdInvalid size offset)).1.toNat / 2 ^ 29 = 0 ∧
      (encode (.rdInvalid size offset)).1.toNat % 4096 = offset.toNat ∧
      (readAt offset size = .rdInvalid size offset ↔ 20 < offset.toNat / 4)) ∧
    exec (.rdInvalid size offset) s =
      .next { s with answer := .value 0#32 0#32, trace := s.trace ++ [.diag .invalidRegister offset] }

/-- Two reads in a row return the same value and the second changes no state; no read recomputes the line (R202, R140,
R162). R69 is an inference the spec marks as its own. -/
def Obligations.ReadsAreIdempotentAndNeverDriveTheLine : Prop :=
  ∀ (offset : Offset) (size : AccessSize) (s : State),
    ∃ t u, exec (readAt offset size) s = .next t ∧ exec (readAt offset size) t = .next u ∧
      RegsKept [.lincr1] s t ∧ (reg t .lincr1 = reg s .lincr1 ∨
        (offset.toNat / 4 = 0 ∧ reg t .lincr1 = reg s .lincr1 ||| 0x00000080#32)) ∧
      t.irq = s.irq ∧ drivenLevels t = drivenLevels s ∧ sentBytes t = sentBytes s ∧ resumeCount t = resumeCount s ∧
      u.answer = t.answer ∧ u.regs = t.regs ∧ u.irq = t.irq ∧ u.cfg = t.cfg ∧ u.calls = t.calls

/-- A read of any size at any of a register's four offsets returns the same value and delivers its low bits (R64,
R62). R65 is an inference the spec marks as its own. -/
def Obligations.SubWordReadsDeliverLowBitsOfTheWholeRegister : Prop :=
  ∀ (o₁ o₂ : Offset) (z₁ z₂ : AccessSize) (s : State), o₁.toNat / 4 = o₂.toNat / 4 →
    ∃ t₁ t₂ v d₁ d₂, exec (readAt o₁ z₁) s = .next t₁ ∧ exec (readAt o₂ z₂) s = .next t₂ ∧
      t₁.answer = .value v d₁ ∧ t₂.answer = .value v d₂ ∧
      d₁.toNat = v.toNat % 2 ^ (8 * z₁.bytes) ∧ d₂.toNat = v.toNat % 2 ^ (8 * z₂.bytes) ∧
      t₁.regs = t₂.regs ∧ t₁.irq = t₂.irq

/-- A write uses only the low 8*size bits of its data, at the register its offset selects, whatever the byte lane
(R64, R62). R65 and R247 are inferences the spec marks as its own. -/
def Obligations.SubWordWritesActOnTheLowBitsOfTheSelectedRegister : Prop :=
  ∀ (o₁ o₂ : Offset) (size : AccessSize) (d₁ d₂ : Word) (s : State), o₁.toNat / 4 = o₂.toNat / 4 →
    d₁.toNat % 2 ^ (8 * size.bytes) = d₂.toNat % 2 ^ (8 * size.bytes) →
    ∃ t₁ t₂, exec (writeAt o₁ size d₁) s = .next t₁ ∧ exec (writeAt o₂ size d₂) s = .next t₂ ∧
      t₁.regs = t₂.regs ∧ t₁.irq = t₂.irq ∧ t₁.answer = t₂.answer ∧
      sentBytes t₁ = sentBytes t₂ ∧ resumeCount t₁ = resumeCount t₂ ∧ drivenLevels t₁ = drivenLevels t₂

/-- Repeating the same write leaves the registers alone; only a BDRL write emits one more byte (R106, R115, R100,
R123). R70 is an inference the spec marks as its own. -/
def Obligations.RepeatedWriteChangesNoRegisterAndOnlyBdrlPushesAgain : Prop :=
  ∀ (offset : Offset) (size : AccessSize) (data : Word) (s : State), s.cfg.ok = true →
    ∃ t u, exec (writeAt offset size data) s = .next t ∧ exec (writeAt offset size data) t = .next u ∧
      u.regs = t.regs ∧ u.irq = t.irq ∧ resumeCount u = resumeCount t ∧
      sentBytes u = sentBytes t ++ (if offset.toNat / 4 = 14 then [BitVec.ofNat 8 data.toNat] else [])

/-- A read after a write to the same register sees what the write stored, as the register's read rule shows it (R73,
R141, R156, R140). -/
def Obligations.ReadAfterWriteSeesTheStoredValue : Prop :=
  ∀ (r : Reg) (size : AccessSize) (lane lane' : Lane) (data : Word) (s : State),
    ∃ t u, exec (writeOf r size lane data) s = .next t ∧ exec (readOf r .four lane') t = .next u ∧
      u.answer = .value (readView r (reg t r)) (readView r (reg t r))

/-- After a LINCR1 write bit 7 is stored 0, a snapshot saved then records 0, and the next read returns and stores 1
(R101, R141). R240 is an inference the spec marks as its own. -/
def Obligations.Control1Bit7ReadsOneAlthoughTheWriteStoredZero : Prop :=
  ∀ (size size' : AccessSize) (lane lane' : Lane) (data : Word) (s : State),
    (∃ t u, exec (.wrLincr1 size lane data) s = .next t ∧ exec (.rdLincr1 size' lane') t = .next u ∧
      ¬ BitIn 0x00000080#32 (reg t .lincr1) ∧
      (∃ v vs, (saveSnapshot t).words = v :: vs ∧ ¬ BitIn 0x00000080#32 v) ∧
      BitIn 0x00000080#32 (reg u .lincr1) ∧ (∃ d, u.answer = .value (reg u .lincr1) d)) ∧
    ∃ u v d, exec (.rdLincr1 size' lane') s = .next u ∧ u.answer = .value v d ∧ BitIn 0x00000080#32 v

/-- GATE: true exactly when neither receive flag is set; nothing changes (R171). -/
def Obligations.GateAnswersWhetherNoReceiveFlagIsSet : Prop :=
  encode .gate = (0x40000000#32, 0x0#32) ∧
  ∀ s : State, exec .gate s = .next { s with answer := .accept (decide (¬ GateClosed s)) }

/-- RX: the low byte of BDRM replaced, both receive flags set, the line re-driven, with the gate open or closed (R172,
92_eei_decisions.md D13). -/
def Obligations.DeliveryStoresTheByteAndSetsBothReceiveFlags : Prop :=
  ∀ (b : Byte) (s : State),
    encode (.rx b) = (0x60000000#32, BitVec.ofNat 32 b.toNat) ∧
    ∃ t, exec (.rx b) s = .next t ∧
      reg t .bdrm = (reg s .bdrm &&& 0xFFFFFF00#32) ||| BitVec.ofNat 32 b.toNat ∧
      reg t .uartsr = reg s .uartsr ||| (s.cfg.usrRbf ||| s.cfg.usrRmb) ∧
      RegsKept [.bdrm, .uartsr] s t ∧ Redriven [] s t ∧ t.answer = .nothing ∧ RestKept s t ∧
      (s.cfg.usrRbf ≠ 0#32 → exec .gate t = .next { t with answer := .accept false })

/-- Gate, delivery and transmit do not depend on LINCR1, UARTCR or LINIER (R178). -/
def Obligations.NoModeGatesTheTransport : Prop :=
  ∀ (s : State) (a b c : Word) (byte : Byte) (size : AccessSize) (lane : Lane) (data : Word),
    ∃ g g' r r' x x',
      exec .gate s = .next g ∧
      exec .gate (setReg (setReg (setReg s .lincr1 a) .uartcr b) .linier c) = .next g' ∧
      g.answer = g'.answer ∧
      exec (.rx byte) s = .next r ∧
      exec (.rx byte) (setReg (setReg (setReg s .lincr1 a) .uartcr b) .linier c) = .next r' ∧
      reg r .bdrm = reg r' .bdrm ∧ reg r .uartsr = reg r' .uartsr ∧
      exec (.wrBdrl size lane data) s = .next x ∧
      exec (.wrBdrl size lane data) (setReg (setReg (setReg s .lincr1 a) .uartcr b) .linier c) = .next x' ∧
      reg x .bdrl = reg x' .bdrl ∧ reg x .uartsr = reg x' .uartsr ∧ sentBytes x = sentBytes x'

/-- The receive flags move exactly as the flow-control table says, with its Resume notifications and its gate column
(R106, R171, R172, R231). R177 is an inference the spec marks as its own. -/
def Obligations.ReceiveFlowControlFollowsItsTable : Prop :=
  ∀ s : State, s.cfg.ok = true →
    (∀ (size : AccessSize) (lane : Lane) (data : Word), ∃ t, exec (.wrUartsr size lane data) s = .next t ∧
      (flowState t, resumeCount t) =
        ((flowAfterClear (flowState s) (decide (BitIn s.cfg.usrRbf (lowPart size data)))
            (decide (BitIn s.cfg.usrRmb (lowPart size data)))).1,
         resumeCount s + (flowAfterClear (flowState s) (decide (BitIn s.cfg.usrRbf (lowPart size data)))
            (decide (BitIn s.cfg.usrRmb (lowPart size data)))).2)) ∧
    (∀ b : Byte, (notPermitted (.rx b) s = none ↔ flowState s = .opened) ∧
      ∃ t, exec (.rx b) s = .next t ∧ (flowState s = .opened → flowState t = .full)) ∧
    (∃ t, exec .gate s = .next t ∧ t.answer = .accept (decide (flowState s = .opened))) ∧
    (∀ (size : AccessSize) (lane : Lane), ∃ t, exec (.rdBdrm size lane) s = .next t ∧ flowState t = flowState s) ∧
    (∃ t, exec .rstEnter s = .next t ∧ flowState t = .opened) ∧
    (∃ t, exec .rstExit s = .next t ∧ flowState t = flowState s ∧ resumeCount t = resumeCount s + 1) ∧
    (∀ (size : AccessSize) (lane : Lane) (data : Word), ∃ t, exec (.wrBdrl size lane data) s = .next t ∧
      flowState t = flowState s ∧ BitIn s.cfg.usrTbe (reg t .uartsr)) ∧
    (∃ t, exec .rstHold s = .next t ∧ flowState t = flowState s ∧ BitIn s.cfg.usrTbe (reg t .uartsr))

/-- Resume is emitted by reset exit, by a UARTSR write that clears a set receive flag, and by nothing else (R173). -/
def Obligations.OnlyUartStatusWritesAndResetExitNotify : Prop :=
  ∀ (i : Instr) (s t : State), s.cfg.ok = true → exec i s = .next t →
    (i = .rstExit → resumeCount t = resumeCount s + 1) ∧
    (∀ size lane data, i = .wrUartsr size lane data →
      resumeCount t = resumeCount s +
        (if (BitIn s.cfg.usrRbf (reg s .uartsr) ∧ ¬ BitIn s.cfg.usrRbf (reg t .uartsr)) ∨
            (BitIn s.cfg.usrRmb (reg s .uartsr) ∧ ¬ BitIn s.cfg.usrRmb (reg t .uartsr)) then 1 else 0)) ∧
    (i ≠ .rstExit → (∀ size lane data, i ≠ .wrUartsr size lane data) → resumeCount t = resumeCount s)

/-- Every BDRL write pushes exactly one byte, its data[7:0], and no other operation pushes any (R174, R115). -/
def Obligations.OnlyTransmitBufferWritesPushBytes : Prop :=
  ∀ (i : Instr) (s t : State), exec i s = .next t →
    (∀ size lane data, i = .wrBdrl size lane data → sentBytes t = sentBytes s ++ [BitVec.ofNat 8 data.toNat]) ∧
    ((∀ size lane data, i ≠ .wrBdrl size lane data) → sentBytes t = sentBytes s)

/-- UpdateIRQ drives and emits the OR of the two enabled and pending sources, and changes nothing else (R200). -/
def Obligations.UpdateIrqDrivesTheOrOfTheTwoSources : Prop :=
  (∀ s : State, updateIRQ s = { s with
      irq := decide (LineAsserted s), trace := s.trace ++ [.irqLevel (decide (LineAsserted s))] }) ∧
  (∀ s s' : State, s.cfg = s'.cfg →
    (BitIn s.cfg.ierRxie (reg s .linier) ↔ BitIn s.cfg.ierRxie (reg s' .linier)) →
    (BitIn s.cfg.ierTxie (reg s .linier) ↔ BitIn s.cfg.ierTxie (reg s' .linier)) →
    (BitIn s.cfg.usrRbf (reg s .uartsr) ↔ BitIn s.cfg.usrRbf (reg s' .uartsr)) →
    (BitIn s.cfg.usrTbe (reg s .uartsr) ↔ BitIn s.cfg.usrTbe (reg s' .uartsr)) →
      (updateIRQ s).irq = (updateIRQ s').irq)

/-- The level is driven once by every write, delivery, reset exit and post-load, and by nothing else (R202, R201,
R45). -/
def Obligations.LineIsRedrivenExactlyAtTheListedPoints : Prop :=
  ∀ (i : Instr) (s t : State), exec i s = .next t →
    (recomputesLine i = true → drivenLevels t = drivenLevels s ++ [t.irq] ∧ LineCurrent t) ∧
    (recomputesLine i = false → drivenLevels t = drivenLevels s ∧ t.irq = s.irq)

/-- Every operation but reset enter and hold keeps the line equal to the level of the current registers (R202, R200,
R141). R203 and R246 are inferences the spec marks as its own. -/
def Obligations.LineStaysCurrentOutsideTheResetPhases : Prop :=
  ∀ (i : Instr) (s t : State), i ≠ .rstEnter → i ≠ .rstHold → LineCurrent s → exec i s = .next t → LineCurrent t

/-- Every step keeps the line current outside a reset sequence, and inside one the registers as the phase left them
(R230, R231, R232, R200, R202, R141). R203 and R246 are inferences the spec marks as its own. -/
def Obligations.LineIsCurrentBetweenOperationsOfADisciplinedRun : Prop :=
  ∀ s t : State, PhaseSafe s → step s = .next t → PhaseSafe t

/-- The line is current in the reset state, and after reset exit and post-load from every state (R233, R235, R200,
R202, R141). R203 is an inference the spec marks as its own. The model's own choice in it: log 7. -/
def Obligations.ResetAndPostloadMakeTheLineCurrent : Prop :=
  (∀ cfg : Params, (State.resetWith cfg).phase = .running ∧ PhaseSafe (State.resetWith cfg)) ∧
  (∀ s : State, ∃ t, exec .rstExit s = .next t ∧ LineCurrent t) ∧
  (∀ s t : State, exec .postload s = .next t → LineCurrent t)

/-- Clearing both pending flags or both enables deasserts the line; no read does (R102, R106, R200). R206 is an
inference the spec marks as its own. -/
def Obligations.AcknowledgingOrDisablingDeassertsTheLine : Prop :=
  ∀ (size : AccessSize) (lane : Lane) (data : Word) (s : State), s.cfg.ok = true →
    (BitIn s.cfg.usrRbf (lowPart size data) → BitIn s.cfg.usrTbe (lowPart size data) →
      ∃ t, exec (.wrUartsr size lane data) s = .next t ∧ t.irq = false) ∧
    (¬ BitIn s.cfg.ierRxie (lowPart size data) → ¬ BitIn s.cfg.ierTxie (lowPart size data) →
      ∃ t, exec (.wrLinier size lane data) s = .next t ∧ t.irq = false) ∧
    (∀ offset : Offset, ∃ t, exec (readAt offset size) s = .next t ∧ t.irq = s.irq)

/-- No operation but reset enter and post-load clears a bit of UARTCR (R105). R50 is an inference the spec marks as
its own. -/
def Obligations.UartControlNeverLosesASetBit : Prop :=
  ∀ (i : Instr) (s t : State), i ≠ .rstEnter → i ≠ .postload → exec i s = .next t →
    reg t .uartcr &&& reg s .uartcr = reg s .uartcr

/-- The INIT-state flag of LINSR, once set, falls only by reset enter, a snapshot load, or a LINSR write without it
(R101, R231). R51 is an inference the spec marks as its own. -/
def Obligations.InitStateFlagIsStickyAgainstControl1 : Prop :=
  ∀ (i : Instr) (s t : State), exec i s = .next t →
    BitIn s.cfg.lsrInit (reg s .linsr) → ¬ BitIn s.cfg.lsrInit (reg t .linsr) →
      i = .rstEnter ∨ i = .postload ∨
      ∃ size lane data, i = .wrLinsr size lane data ∧ ¬ BitIn s.cfg.lsrInit (lowPart size data)

/-- Which operations change INIT mode and UART mode, and that only the UARTCR write depends on them (R213, R52, R53). -/
def Obligations.ModesAreEnteredAndLeftOnlyAsDescribed : Prop :=
  (∀ (i : Instr) (s t : State), s.cfg.ok = true → i ≠ .rstEnter → i ≠ .postload → exec i s = .next t →
    ((∀ size lane data, i ≠ .wrLincr1 size lane data) → (InitMode t ↔ InitMode s)) ∧
    (∀ size lane data, i = .wrLincr1 size lane data →
      (InitMode t ↔ BitIn s.cfg.cr1Init (lowPart size data &&& 0x0001DF27#32))) ∧
    (UartModeOn s → UartModeOn t) ∧
    (∀ size lane data, i = .wrUartcr size lane data → InitMode s → BitIn s.cfg.ucrUart (lowPart size data) →
      UartModeOn t) ∧
    (¬ UartModeOn s → UartModeOn t →
      ∃ size lane data, i = .wrUartcr size lane data ∧ InitMode s ∧ BitIn s.cfg.ucrUart (lowPart size data))) ∧
  (∀ (i : Instr) (s t : State) (a : Word), (∀ size lane data, i ≠ .wrUartcr size lane data) → exec i s = .next t →
    ∃ t', exec i (setReg s .lincr1 a) = .next t' ∧
      RegsKept [.lincr1] t t' ∧ t'.irq = t.irq ∧ t'.trace = t.trace ∧ RestKept t t' ∧
      ((∃ size lane data, i = .wrLincr1 size lane data) ∨ i = .rstEnter ∨ i = .postload →
        reg t' .lincr1 = reg t .lincr1) ∧
      (∀ size lane, i = .rdLincr1 size lane →
        reg t' .lincr1 = a ||| 0x00000080#32 ∧
        t'.answer = .value (a ||| 0x00000080#32) (lowPart size (a ||| 0x00000080#32))) ∧
      ((∀ size lane data, i ≠ .wrLincr1 size lane data) → i ≠ .rstEnter → i ≠ .postload →
        (∀ size lane, i ≠ .rdLincr1 size lane) → reg t' .lincr1 = a) ∧
      ((∀ size lane, i ≠ .rdLincr1 size lane) → t'.answer = t.answer)) ∧
  (∀ (i : Instr) (s t : State) (b : Word), (∀ size lane data, i ≠ .wrUartcr size lane data) → exec i s = .next t →
    ∃ t', exec i (setReg s .uartcr b) = .next t' ∧
      RegsKept [.uartcr] t t' ∧ t'.irq = t.irq ∧ t'.trace = t.trace ∧ RestKept t t' ∧
      (i = .rstEnter ∨ i = .postload → reg t' .uartcr = reg t .uartcr) ∧
      (i ≠ .rstEnter → i ≠ .postload → reg t' .uartcr = b) ∧
      (∀ size lane, i = .rdUartcr size lane → t'.answer = .value b (lowPart size b)) ∧
      ((∀ size lane, i ≠ .rdUartcr size lane) → t'.answer = t.answer))

/-- Which operations set and clear each of the three UARTSR flags (R44, R249). -/
def Obligations.StatusFlagsAreWrittenOnlyAsListed : Prop :=
  ∀ (i : Instr) (s t : State), s.cfg.ok = true → i ≠ .postload → exec i s = .next t →
    (∀ m, m = s.cfg.usrRbf ∨ m = s.cfg.usrRmb → ¬ BitIn m (reg s .uartsr) → BitIn m (reg t .uartsr) →
      ∃ b, i = .rx b) ∧
    (¬ BitIn s.cfg.usrTbe (reg s .uartsr) → BitIn s.cfg.usrTbe (reg t .uartsr) →
      i = .rstHold ∨ ∃ size lane data, i = .wrBdrl size lane data) ∧
    (∀ m, m = s.cfg.usrRbf ∨ m = s.cfg.usrRmb ∨ m = s.cfg.usrTbe →
      BitIn m (reg s .uartsr) → ¬ BitIn m (reg t .uartsr) →
        i = .rstEnter ∨ ∃ size lane data, i = .wrUartsr size lane data ∧ BitIn m (lowPart size data))

/-- A step keeps LINCR1, LINIER and UARTSR within what they can hold absent a snapshot load (R142, R101, R141, R231,
R44, R106, R232). R49 and R54 are inferences the spec marks as its own. -/
def Obligations.RegistersStayLegalUnderEveryStep : Prop :=
  ∀ s t : State, RegistersLegal s ∧ NoLoadPending s → step s = .next t → RegistersLegal t ∧ NoLoadPending t

/-- The state after reset meets the register invariant, for all parameters (R101, R141, R231, R44, R106, R232, R233,
R200). R49 and R54 and R234 are inferences the spec marks as its own. The model's own choice in it: log 5. -/
def Obligations.ResetRegistersAreLegal : Prop :=
  ∀ cfg : Params, RegistersLegal (State.resetWith cfg) ∧ NoLoadPending (State.resetWith cfg)

/-- No operation reads the event trace; reads of valid registers emit no diagnostic (R46, 92_eei_decisions.md D24,
R212, 92_eei_decisions.md D16, R162, R122, R100, 92_eei_decisions.md D11). The model's own choice in it: log 9. -/
def Obligations.TraceIsOnlyAnOutput : Prop :=
  (∀ (i : Instr) (s t : State), exec i s = .next t →
    ∃ es, t.trace = s.trace ++ es ∧
      ∀ tr : List Event, exec i { s with trace := tr } = .next { t with trace := tr ++ es }) ∧
  (∀ (offset : Offset) (size : AccessSize) (s : State), offset.toNat / 4 ≤ 20 →
    ∃ t, exec (readAt offset size) s = .next t ∧ t.trace = s.trace) ∧
  (∀ (offset : Offset) (size : AccessSize) (data : Word) (s : State), 20 < offset.toNat / 4 →
    (∃ t, exec (readAt offset size) s = .next t ∧ t.trace = s.trace ++ [.diag .invalidRegister offset]) ∧
    (∃ t, exec (writeAt offset size data) s = .next t ∧
      t.trace = s.trace ++ [.diag .invalidRegister offset, .irqLevel t.irq]))

/-- No step changes the parameters, and no operation depends on the base address, the byte order or the alignment
parameter (R67, R60, R9, R11, 92_eei_decisions.md D6, R62, R64). R66 is an inference the spec marks as its own.
The model's own choice in it: log 3. -/
def Obligations.ParametersAreNeverWrittenAndTheBusOnesNeverRead : Prop :=
  (∀ s t : State, step s = .next t → t.cfg = s.cfg) ∧
  (∀ (i : Instr) (s t : State) (base : Nat) (order : ByteOrder) (unaligned : Bool), exec i s = .next t →
    RestKept s t ∧
    exec i { s with cfg := { s.cfg with base := base, byteOrder := order, admitsUnaligned := unaligned } } =
      .next { t with cfg := { s.cfg with base := base, byteOrder := order, admitsUnaligned := unaligned } })

/-- RST.ENTER: every register at its power-on value; the line and the trace untouched (R231). -/
def Obligations.ResetEnterGivesThePowerOnValues : Prop :=
  encode .rstEnter = (0x80000000#32, 0x0#32) ∧
  ∀ s : State, ∃ t, exec .rstEnter s = .next t ∧ (∀ p ∈ powerOnTable, reg t p.1 = p.2) ∧
    LineUntouched s t ∧ t.answer = .nothing ∧ RestKept s t

/-- RST.HOLD: the transmit-buffer-empty flag set, the line not recomputed (R232). -/
def Obligations.ResetHoldSetsTransmitBufferEmpty : Prop :=
  encode .rstHold = (0xA0000000#32, 0x0#32) ∧
  ∀ s : State, ∃ t, exec .rstHold s = .next t ∧ reg t .uartsr = reg s .uartsr ||| s.cfg.usrTbe ∧
    RegsKept [.uartsr] s t ∧ LineUntouched s t ∧ t.answer = .nothing ∧ RestKept s t

/-- RST.EXIT: the line re-driven first, then the resume notification, unconditionally (R233). -/
def Obligations.ResetExitDrivesTheLineThenNotifies : Prop :=
  encode .rstExit = (0xC0000000#32, 0x0#32) ∧
  ∀ s : State, ∃ t, exec .rstExit s = .next t ∧ RegsKept [] s t ∧ LineCurrent t ∧
    t.trace = s.trace ++ [.irqLevel t.irq, .resume] ∧ t.answer = .nothing ∧ RestKept s t

/-- The three phases from any state leave the state R234 gives, with its two events (R231, R232, R233, R200). R234 is
an inference the spec marks as its own. -/
def Obligations.CompleteResetFromAnyStateLeavesTheStatedState : Prop :=
  (∀ s : State, ∃ t₁ t₂ t₃,
    exec .rstEnter s = .next t₁ ∧ exec .rstHold t₁ = .next t₂ ∧ exec .rstExit t₂ = .next t₃ ∧
      (∀ p ∈ powerOnTable, reg t₃ p.1 = if p.1 = .uartsr then s.cfg.usrTbe else p.2) ∧
      t₃.irq = false ∧ t₃.trace = s.trace ++ [.irqLevel false, .resume] ∧ ¬ UartModeOn t₃ ∧
      (s.cfg.ok = true → ¬ GateClosed t₃ ∧ (s.cfg.cr1Init ≠ 0x00000002#32 → ¬ InitMode t₃)) ∧
      (s.cfg = defaultParams → reg t₃ .uartsr = 0x00000002#32 ∧ ¬ InitMode t₃)) ∧
  defaultParams.ok = true

/-- State.reset is what the three phases leave of a constructed state, whatever its registers and line were (R230,
R237, R231, R232, R233, R200). R234 is an inference the spec marks as its own. The model's own choice in it: logs
5 and 9. -/
def Obligations.ResetStateIsTheCompleteResetOfAConstructedState : Prop :=
  ∀ (cfg : Params) (f : RegFile) (l : Bool), ∃ t₁ t₂,
    exec .rstEnter (State.constructed cfg f l) = .next t₁ ∧ exec .rstHold t₁ = .next t₂ ∧
      exec .rstExit t₂ = .next (State.resetWith cfg)

/-- POSTLOAD: every register becomes the record's word, no mask, no Resume, the line recomputed (R235, R236). -/
def Obligations.PostloadTakesTheRecordVerbatim : Prop :=
  encode .postload = (0xE0000000#32, 0x0#32) ∧
  ∀ (s : State) (r : SnapshotRecord), s.record = some r → r.version = s.cfg.snapshotVersion → r.words.length = 21 →
    ∃ t, exec .postload s = .next t ∧ (∀ q : Reg, r.words[regIndex q]? = some (reg t q)) ∧
      Redriven [] s t ∧ t.answer = .nothing ∧ RestKept s t

/-- POSTLOAD of a record of another version or length, or of none, is refused (R235, R236, R80). The model's own
choice in it: log 8. -/
def Obligations.PostloadRefusesAnotherFormat : Prop :=
  ∀ s : State,
    (s.record = none → exec .postload s = .refused .recordMissing) ∧
    (∀ r, s.record = some r → r.version ≠ s.cfg.snapshotVersion ∨ r.words.length ≠ 21 →
      exec .postload s = .refused .recordFormat)

/-- A snapshot saved from any state and loaded into any other restores every register and nothing else of the saved
state (R236, R235, R48). -/
def Obligations.SavedSnapshotRestoresTheRegisters : Prop :=
  ∀ s u : State, u.cfg.snapshotVersion = s.cfg.snapshotVersion →
    ∃ t, exec .postload { u with record := some (saveSnapshot s) } = .next t ∧
      (∀ r, reg t r = reg s r) ∧ t.cfg = u.cfg ∧ t.trace = u.trace ++ [.irqLevel t.irq] ∧ LineCurrent t

/-- The configuration order of R238 sets every wanted UARTCR bit and leaves INIT mode with the INIT-state flag still
set (R213, R101, R102, R105, R232). R238 and R248 are inferences the spec marks as its own. -/
def Obligations.InitSequenceConfiguresUartControl : Prop :=
  ∀ (s : State) (v : Word), s.cfg.ok = true → BitIn s.cfg.ucrUart v →
    ∃ t₁ t₂ t₃, exec (.wrLincr1 .four 0#2 s.cfg.cr1Init) s = .next t₁ ∧ exec (.wrUartcr .four 0#2 v) t₁ = .next t₂ ∧
      exec (.wrLincr1 .four 0#2 0#32) t₂ = .next t₃ ∧
      reg t₃ .uartcr = reg s .uartcr ||| v ∧ ¬ InitMode t₃ ∧ UartModeOn t₃ ∧ BitIn s.cfg.lsrInit (reg t₃ .linsr)

/-- The bus routes an address exactly when it lies in the window, and the call it makes decodes to the access at its
offset (R60, R64, R85). -/
def Obligations.BusRoutesExactlyTheWindow : Prop :=
  ∀ (cfg : Params) (a : Nat) (size : AccessSize) (data : Word),
    (∀ offset, route cfg a = some offset ↔ cfg.base ≤ a ∧ a < cfg.base + 4096 ∧ offset.toNat = a - cfg.base) ∧
    (∀ offset, route cfg a = some offset →
      (∃ c, guestRead cfg a size = some c ∧ c.record = none ∧ decode c.w c.d = .ok (readAt offset size)) ∧
      (∃ c, guestWrite cfg a size data = some c ∧ c.record = none ∧
        decode c.w c.d = .ok (writeAt offset size (lowPart size data)))) ∧
    (route cfg a = none → guestRead cfg a size = none ∧ guestWrite cfg a size data = none)

/-- Which bits of a value stand at each rising address in each byte order, and that the bytes make up the datum again
(R67, R64). The model's own choice in it: log 2. -/
def Obligations.BusBytesMakeUpTheDatumInEitherOrder : Prop :=
  ∀ (cfg : Params) (size : AccessSize) (v : Word),
    (busBytes cfg size v).length = size.bytes ∧
    (cfg.byteOrder = .little → ∀ k, k < size.bytes →
      (busBytes cfg size v)[k]? = some (BitVec.ofNat 8 (v.toNat / 2 ^ (8 * k)))) ∧
    (cfg.byteOrder = .big → ∀ k, k < size.bytes →
      (busBytes cfg size v)[k]? = some (BitVec.ofNat 8 (v.toNat / 2 ^ (8 * (size.bytes - 1 - k))))) ∧
    busBytes cfg size (lowPart size v) = busBytes cfg size v ∧
    busDatum cfg (busBytes cfg size v) = lowPart size v ∧
    (∀ bs : List Byte, bs.length = size.bytes → busBytes cfg size (busDatum cfg bs) = bs)

/-- A reset runs enter, hold, exit in that order, with no other operation between them (R230, R231, R232, R233,
92_eei_decisions.md D14). The model's own choice in it: log 7. -/
def Obligations.ResetPhasesRunInOrderWithNothingBetween : Prop :=
  (∀ (s : State) (c : Call) (rest : List Call) (i : Instr), s.calls = c :: rest → decode c.w c.d = .ok i →
    (s.phase = .running → i = .rstHold ∨ i = .rstExit → step s = .refused .resetOrderBroken) ∧
    (s.phase = .entered → i ≠ .rstHold → step s = .refused .resetOrderBroken) ∧
    (s.phase = .held → i ≠ .rstExit → step s = .refused .resetOrderBroken) ∧
    (s.phase = .running → i = .rstEnter → ∃ t, step s = .next t ∧ t.phase = .entered ∧ t.calls = rest) ∧
    (s.phase = .entered → i = .rstHold → ∃ t, step s = .next t ∧ t.phase = .held ∧ t.calls = rest) ∧
    (s.phase = .held → i = .rstExit → ∃ t, step s = .next t ∧ t.phase = .running ∧ t.calls = rest) ∧
    (∀ t, s.phase = .running → i ≠ .rstEnter → step s = .next t → t.phase = .running)) ∧
  (∀ (s : State) (c₁ c₂ c₃ : Call) (rest : List Call), s.phase = .running → s.calls = c₁ :: c₂ :: c₃ :: rest →
    decode c₁.w c₁.d = .ok .rstEnter → decode c₂.w c₂.d = .ok .rstHold → decode c₃.w c₃.d = .ok .rstExit →
      ∃ t₁ t₂ t₃, step s = .next t₁ ∧ step t₁ = .next t₂ ∧ step t₂ = .next t₃ ∧
        t₃.phase = .running ∧ t₃.calls = rest ∧ LineCurrent t₃ ∧
        (∀ p ∈ powerOnTable, reg t₃ p.1 = if p.1 = .uartsr then s.cfg.usrTbe else p.2))
end

