-- ==== Sys2Proof/Laws/Bits.lean ====
section
/-! SUPPORT. One-bit masks (00_scope.md R10, R12): testing, setting and clearing one, and the low bytes of a word. -/

namespace Sys2Proof.Machine

theorem hasBit_iff (v m : Word) : hasBit v m = true ↔ BitIn m v := by
  simp [hasBit]

theorem bitIn_or (m v u : Word) : BitIn m (v ||| u) ↔ BitIn m v ∨ BitIn m u := by
  have h : (v ||| u) &&& m = v &&& m ||| u &&& m := by
    ext
    simp [Bool.and_or_distrib_right]
  simp only [BitIn, ne_eq, h, BitVec.or_eq_zero_iff]
  tauto

theorem bitIn_self_or (m v : Word) (h : m ≠ 0#32) : BitIn m (v ||| m) :=
  (bitIn_or m v m).2 (.inr (by simpa [BitIn] using h))

/-- A one-bit mask is a power of two. -/
theorem isOneBit_eq_twoPow (m : Word) (h : isOneBit m = true) : ∃ k : Nat, k < 32 ∧ m = BitVec.twoPow 32 k := by
  simp only [isOneBit, Bool.and_eq_true, bne_iff_ne, ne_eq, beq_iff_eq] at h
  obtain ⟨h0, h1⟩ := h
  have hm : m.toNat ≠ 0 := fun e => h0 (BitVec.eq_of_toNat_eq (by simpa using e))
  have hlt := m.isLt
  have hsub : (m - 1#32).toNat = m.toNat - 1 := by
    rw [BitVec.toNat_sub_of_le (by simp [BitVec.le_def]; omega)]; rfl
  have hand : m.toNat &&& (m.toNat - 1) = 0 := by
    have := congrArg BitVec.toNat h1
    rwa [BitVec.toNat_and, hsub] at this
  obtain ⟨k, hk⟩ := (Nat.and_sub_one_eq_zero_iff_isPowerOfTwo hm).1 hand
  refine ⟨k, ?_, ?_⟩
  · have : 2 ^ k < 2 ^ 32 := hk ▸ hlt
    exact (Nat.pow_lt_pow_iff_right (by norm_num)).1 this
  · apply BitVec.eq_of_toNat_eq
    rw [BitVec.toNat_twoPow, ← hk, Nat.mod_eq_of_lt hlt]

/-- Testing a one-bit mask is testing its bit. -/
theorem bitIn_twoPow (v : Word) (k : Nat) (hk : k < 32) : BitIn (BitVec.twoPow 32 k) v ↔ v.getLsbD k = true := by
  simp only [BitIn, BitVec.and_twoPow]
  cases h : v.getLsbD k
  · simp
  · simp only [if_true, ne_eq, iff_true]
    intro e
    have := congrArg (BitVec.getLsbD · k) e
    simp [hk] at this

/-- With a one-bit mask, ANDing distributes over the test. -/
theorem bitIn_and (m v u : Word) (h : isOneBit m = true) : BitIn m (v &&& u) ↔ BitIn m v ∧ BitIn m u := by
  obtain ⟨k, hk, rfl⟩ := isOneBit_eq_twoPow m h
  simp [bitIn_twoPow _ _ hk]

/-- With a one-bit mask, the complement has the bit exactly when the word has not. -/
theorem bitIn_not (m v : Word) (h : isOneBit m = true) : BitIn m (~~~v) ↔ ¬ BitIn m v := by
  obtain ⟨k, hk, rfl⟩ := isOneBit_eq_twoPow m h
  simp [bitIn_twoPow _ _ hk, hk]

/-- Two different one-bit masks share no bit. -/
theorem bitIn_other (m n : Word) (hm : isOneBit m = true) (hn : isOneBit n = true) (hne : m ≠ n) : ¬ BitIn m n := by
  obtain ⟨k, hk, rfl⟩ := isOneBit_eq_twoPow m hm
  obtain ⟨j, hj, rfl⟩ := isOneBit_eq_twoPow n hn
  rw [bitIn_twoPow _ _ hk, BitVec.getLsbD_twoPow]
  simp only [Bool.and_eq_true, decide_eq_true_eq, not_and]
  rintro - rfl
  exact hne rfl

theorem isOneBit_ne_zero (m : Word) (h : isOneBit m = true) : m ≠ 0#32 := by
  rintro rfl
  exact absurd h (by decide)

theorem bitIn_self (m : Word) (h : isOneBit m = true) : BitIn m m := by
  simpa [BitIn] using isOneBit_ne_zero m h

/-- `zext_32(v[8*size-1:0])` is the remainder modulo `2^(8*size)` (20_memory.md R64). -/
theorem lowBytes_eq_lowPart (size : AccessSize) (v : Word) : lowBytes size v = lowPart size v := by
  apply BitVec.eq_of_toNat_eq
  simp only [lowBytes, lowPart, BitVec.toNat_setWidth, BitVec.toNat_ofNat]

theorem lowPart_four (v : Word) : lowPart .four v = v := by
  apply BitVec.eq_of_toNat_eq
  have := v.isLt
  simp only [lowPart, AccessSize.bytes, BitVec.toNat_ofNat]
  omega

theorem lowPart_toNat (size : AccessSize) (v : Word) : (lowPart size v).toNat = v.toNat % 2 ^ (8 * size.bytes) := by
  have := v.isLt
  cases size <;> simp only [lowPart, AccessSize.bytes, BitVec.toNat_ofNat] <;> omega

/-- The character byte of a write is data[7:0], whatever the size (R115). -/
theorem charByte_writeValue (size : AccessSize) (data : Word) :
    charByte (writeValue size data) = BitVec.ofNat 8 data.toNat := by
  apply BitVec.eq_of_toNat_eq
  have h : (255 : Nat) = 2 ^ 8 - 1 := rfl
  rw [writeValue, lowBytes_eq_lowPart, charByte, byteMask, BitVec.toNat_setWidth, BitVec.toNat_and, lowPart_toNat]
  simp only [BitVec.toNat_ofNat]
  rw [show (255 : Nat) % 2 ^ 32 = 2 ^ 8 - 1 from rfl, Nat.and_two_pow_sub_one_eq_mod]
  cases size <;> simp only [AccessSize.bytes] <;> omega

/-- What the constraints of R10 give, named. -/
theorem params_ok_spec (p : Params) (h : p.ok = true) :
    isOneBit p.cr1Init = true ∧ isOneBit p.lsrInit = true ∧ isOneBit p.ucrUart = true ∧ isOneBit p.usrRbf = true ∧
    isOneBit p.usrRmb = true ∧ isOneBit p.usrTbe = true ∧ isOneBit p.ierTxie = true ∧ isOneBit p.ierRxie = true ∧
    BitIn 0x0001DF27#32 p.cr1Init ∧ p.cr1Init ≠ 0x00000080#32 ∧
    p.usrRbf ≠ p.usrRmb ∧ p.usrRbf ≠ p.usrTbe ∧ p.usrRmb ≠ p.usrTbe ∧
    BitIn 0x0000FFFF#32 p.usrRbf ∧ BitIn 0x0000FFFF#32 p.usrRmb ∧ BitIn 0x0000FFFF#32 p.usrTbe ∧
    p.ierTxie ≠ p.ierRxie ∧ BitIn 0x0000FFFF#32 p.ierTxie ∧ BitIn 0x0000FFFF#32 p.ierRxie := by
  simpa [Params.ok, and_assoc] using h

end Sys2Proof.Machine
end

