-- ==== Sys2Proof/Laws/Codec.lean ====
section
/-! SUPPORT. The fields of an operation word, and the register of an index (30_encoding.md R81, R83). -/

namespace Sys2Proof

/-- Appending bit vectors is adding at the higher place. -/
theorem append_toNat {m n : Nat} (x : BitVec m) (y : BitVec n) : (x ++ y).toNat = x.toNat * 2 ^ n + y.toNat := by
  rw [BitVec.toNat_append, ← Nat.shiftLeft_add_eq_or_of_lt y.isLt, Nat.shiftLeft_eq]

theorem operationWord_toNat (k : BitVec 3) (z : BitVec 2) (a : Offset) :
    (operationWord k z a).toNat = k.toNat * 2 ^ 29 + z.toNat * 2 ^ 24 + a.toNat := by
  simp only [operationWord, append_toNat, BitVec.toNat_ofNat]
  omega

@[simp] theorem operationWord_kind (k : BitVec 3) (z : BitVec 2) (a : Offset) :
    (operationWord k z a).extractLsb' 29 3 = k := by
  have hz := z.isLt
  have ha := a.isLt
  have hk := k.isLt
  apply BitVec.eq_of_toNat_eq
  simp only [BitVec.extractLsb'_toNat, operationWord_toNat, Nat.shiftRight_eq_div_pow]
  omega

@[simp] theorem operationWord_reservedHigh (k : BitVec 3) (z : BitVec 2) (a : Offset) :
    (operationWord k z a).extractLsb' 26 3 = 0#3 := by
  have hz := z.isLt
  have ha := a.isLt
  have hk := k.isLt
  apply BitVec.eq_of_toNat_eq
  simp only [BitVec.extractLsb'_toNat, operationWord_toNat, Nat.shiftRight_eq_div_pow, BitVec.toNat_ofNat]
  omega

@[simp] theorem operationWord_reservedLow (k : BitVec 3) (z : BitVec 2) (a : Offset) :
    (operationWord k z a).extractLsb' 12 12 = 0#12 := by
  have hz := z.isLt
  have ha := a.isLt
  have hk := k.isLt
  apply BitVec.eq_of_toNat_eq
  simp only [BitVec.extractLsb'_toNat, operationWord_toNat, Nat.shiftRight_eq_div_pow, BitVec.toNat_ofNat]
  omega

@[simp] theorem operationWord_size (k : BitVec 3) (z : BitVec 2) (a : Offset) :
    (operationWord k z a).extractLsb' 24 2 = z := by
  have hz := z.isLt
  have ha := a.isLt
  have hk := k.isLt
  apply BitVec.eq_of_toNat_eq
  simp only [BitVec.extractLsb'_toNat, operationWord_toNat, Nat.shiftRight_eq_div_pow]
  omega

@[simp] theorem operationWord_offset (k : BitVec 3) (z : BitVec 2) (a : Offset) :
    (operationWord k z a).extractLsb' 0 12 = a := by
  have hz := z.isLt
  have ha := a.isLt
  have hk := k.isLt
  apply BitVec.eq_of_toNat_eq
  simp only [BitVec.extractLsb'_toNat, operationWord_toNat, Nat.shiftRight_eq_div_pow]
  omega

@[simp] theorem sizeOfField_sizeField (size : AccessSize) : sizeOfField (sizeField size) = size := by
  cases size <;> rfl

theorem sizeOfField_bytes (z : BitVec 2) : (sizeOfField z).bytes = z.toNat + 1 := by
  revert z
  decide

theorem sizeField_sizeOfField (z : BitVec 2) : sizeField (sizeOfField z) = z := by
  revert z
  decide

@[simp] theorem regOfIndex_regIndex (r : Reg) : regOfIndex (regIndex r) = some r := by
  cases r <;> rfl

/-- An index selects a register exactly when it is at most 20 (20_memory.md R63). -/
theorem regOfIndex_spec (n : Nat) (r : Reg) : regOfIndex n = some r ↔ n = regIndex r := by
  constructor
  · intro h
    unfold regOfIndex at h
    split at h <;> first | (cases h; rfl) | cases h
  · rintro rfl
    exact regOfIndex_regIndex r

theorem regIndex_le (r : Reg) : regIndex r ≤ 20 := by
  cases r <;> decide

theorem regOfIndex_none_iff (n : Nat) : regOfIndex n = none ↔ 20 < n := by
  constructor
  · intro h
    by_contra hn
    have : n ∈ List.range 21 := by simp; omega
    fin_cases this <;> cases h
  · intro h
    cases hr : regOfIndex n with
    | none => rfl
    | some r =>
      have := (regOfIndex_spec n r).1 hr
      have := regIndex_le r
      omega

theorem regOffset_toNat (r : Reg) (lane : Lane) : (regOffset r lane).toNat = 4 * regIndex r + lane.toNat := by
  have hl := lane.isLt
  have hr := regIndex_le r
  simp only [regOffset, append_toNat, BitVec.toNat_ofNat]
  omega

end Sys2Proof
end

