-- ==== Sys2Proof/Laws/RegFile.lean ====
section
/-! SUPPORT. The register file's laws: read after write, the file of a function, and the words of a record. -/

namespace Sys2Proof.Machine

@[simp] theorem fileGet_fileSet (f : RegFile) (r q : Reg) (v : Word) :
    fileGet (fileSet f r v) q = if q = r then v else fileGet f q := by
  cases r <;> cases q <;> rfl

@[simp] theorem fileGet_fileOf (g : Reg → Word) (r : Reg) : fileGet (fileOf g) r = g r := by
  cases r <;> rfl

/-- Two files that agree on every register are the same file. -/
theorem regFile_ext (f g : RegFile) (h : ∀ r, fileGet f r = fileGet g r) : f = g := by
  cases f
  cases g
  simp only [RegFile.mk.injEq]
  exact ⟨h .lincr1, h .linier, h .linsr, h .linesr, h .uartcr, h .uartsr, h .lintcsr, h .linocr, h .lintocr, h .linfbrr, h .linibrr, h .lincfr, h .lincr2, h .bidr, h .bdrl, h .bdrm, h .gcr, h .uartpto, h .uartcto, h .dmatxe, h .dmarxe⟩

@[simp] theorem fileWords_length (f : RegFile) : (fileWords f).length = 21 := rfl

@[simp] theorem fileOfWords_fileWords (f : RegFile) : fileOfWords (fileWords f) = some f := rfl

/-- A list fills a file exactly when it has 21 words, and then the file's words are the list. -/
theorem fileOfWords_spec (ws : List Word) (f : RegFile) :
    fileOfWords ws = some f ↔ ws = fileWords f := by
  constructor
  · intro h
    unfold fileOfWords at h
    split at h
    · cases h; rfl
    · cases h
  · rintro rfl
    rfl

theorem fileOfWords_isSome_iff (ws : List Word) : (∃ f, fileOfWords ws = some f) ↔ ws.length = 21 := by
  constructor
  · rintro ⟨f, h⟩
    rw [(fileOfWords_spec ws f).1 h, fileWords_length]
  · intro h
    match ws, h with
    | [a0, a1, a2, a3, a4, a5, a6, a7, a8, a9, a10, a11, a12, a13, a14, a15, a16, a17, a18, a19, a20], _ =>
      exact ⟨_, rfl⟩

end Sys2Proof.Machine
end

