-- ==== Sys2Proof/Laws/State.lean ====
section
/-! SUPPORT. One lemma for each field under each state update, so that no later proof unfolds a record update; and what
`reg` reads after each. -/

namespace Sys2Proof.Machine

variable (s : State)

@[simp] theorem setReg_cfg (r : Reg) (v : Word) : (setReg s r v).cfg = s.cfg := rfl
@[simp] theorem setReg_regs (r : Reg) (v : Word) : (setReg s r v).regs = fileSet s.regs r v := rfl
@[simp] theorem setReg_irq (r : Reg) (v : Word) : (setReg s r v).irq = s.irq := rfl
@[simp] theorem setReg_trace (r : Reg) (v : Word) : (setReg s r v).trace = s.trace := rfl
@[simp] theorem setReg_answer (r : Reg) (v : Word) : (setReg s r v).answer = s.answer := rfl
@[simp] theorem setReg_record (r : Reg) (v : Word) : (setReg s r v).record = s.record := rfl
@[simp] theorem setReg_calls (r : Reg) (v : Word) : (setReg s r v).calls = s.calls := rfl
@[simp] theorem setReg_phase (r : Reg) (v : Word) : (setReg s r v).phase = s.phase := rfl

@[simp] theorem loadRegs_cfg (f : RegFile) : (loadRegs s f).cfg = s.cfg := rfl
@[simp] theorem loadRegs_regs (f : RegFile) : (loadRegs s f).regs = f := rfl
@[simp] theorem loadRegs_irq (f : RegFile) : (loadRegs s f).irq = s.irq := rfl
@[simp] theorem loadRegs_trace (f : RegFile) : (loadRegs s f).trace = s.trace := rfl
@[simp] theorem loadRegs_answer (f : RegFile) : (loadRegs s f).answer = s.answer := rfl
@[simp] theorem loadRegs_record (f : RegFile) : (loadRegs s f).record = s.record := rfl
@[simp] theorem loadRegs_calls (f : RegFile) : (loadRegs s f).calls = s.calls := rfl
@[simp] theorem loadRegs_phase (f : RegFile) : (loadRegs s f).phase = s.phase := rfl

@[simp] theorem emit_cfg (e : Event) : (emit s e).cfg = s.cfg := rfl
@[simp] theorem emit_regs (e : Event) : (emit s e).regs = s.regs := rfl
@[simp] theorem emit_irq (e : Event) : (emit s e).irq = s.irq := rfl
@[simp] theorem emit_trace (e : Event) : (emit s e).trace = s.trace ++ [e] := rfl
@[simp] theorem emit_answer (e : Event) : (emit s e).answer = s.answer := rfl
@[simp] theorem emit_record (e : Event) : (emit s e).record = s.record := rfl
@[simp] theorem emit_calls (e : Event) : (emit s e).calls = s.calls := rfl
@[simp] theorem emit_phase (e : Event) : (emit s e).phase = s.phase := rfl

@[simp] theorem report_cfg (k : DiagKind) (offset : Offset) : (report s k offset).cfg = s.cfg := rfl
@[simp] theorem report_regs (k : DiagKind) (offset : Offset) : (report s k offset).regs = s.regs := rfl
@[simp] theorem report_irq (k : DiagKind) (offset : Offset) : (report s k offset).irq = s.irq := rfl
@[simp] theorem report_trace (k : DiagKind) (offset : Offset) : (report s k offset).trace = s.trace ++ [.diag k offset] := rfl
@[simp] theorem report_answer (k : DiagKind) (offset : Offset) : (report s k offset).answer = s.answer := rfl
@[simp] theorem report_record (k : DiagKind) (offset : Offset) : (report s k offset).record = s.record := rfl
@[simp] theorem report_calls (k : DiagKind) (offset : Offset) : (report s k offset).calls = s.calls := rfl
@[simp] theorem report_phase (k : DiagKind) (offset : Offset) : (report s k offset).phase = s.phase := rfl

@[simp] theorem driveLine_cfg (level : Bool) : (driveLine s level).cfg = s.cfg := rfl
@[simp] theorem driveLine_regs (level : Bool) : (driveLine s level).regs = s.regs := rfl
@[simp] theorem driveLine_irq (level : Bool) : (driveLine s level).irq = level := rfl
@[simp] theorem driveLine_trace (level : Bool) : (driveLine s level).trace = s.trace := rfl
@[simp] theorem driveLine_answer (level : Bool) : (driveLine s level).answer = s.answer := rfl
@[simp] theorem driveLine_record (level : Bool) : (driveLine s level).record = s.record := rfl
@[simp] theorem driveLine_calls (level : Bool) : (driveLine s level).calls = s.calls := rfl
@[simp] theorem driveLine_phase (level : Bool) : (driveLine s level).phase = s.phase := rfl

@[simp] theorem answerWith_cfg (a : Answer) : (answerWith s a).cfg = s.cfg := rfl
@[simp] theorem answerWith_regs (a : Answer) : (answerWith s a).regs = s.regs := rfl
@[simp] theorem answerWith_irq (a : Answer) : (answerWith s a).irq = s.irq := rfl
@[simp] theorem answerWith_trace (a : Answer) : (answerWith s a).trace = s.trace := rfl
@[simp] theorem answerWith_answer (a : Answer) : (answerWith s a).answer = a := rfl
@[simp] theorem answerWith_record (a : Answer) : (answerWith s a).record = s.record := rfl
@[simp] theorem answerWith_calls (a : Answer) : (answerWith s a).calls = s.calls := rfl
@[simp] theorem answerWith_phase (a : Answer) : (answerWith s a).phase = s.phase := rfl

@[simp] theorem updateIRQ_cfg : (updateIRQ s).cfg = s.cfg := rfl
@[simp] theorem updateIRQ_regs : (updateIRQ s).regs = s.regs := rfl
@[simp] theorem updateIRQ_irq : (updateIRQ s).irq = lineLevel s := rfl
@[simp] theorem updateIRQ_trace : (updateIRQ s).trace = s.trace ++ [.irqLevel (lineLevel s)] := rfl
@[simp] theorem updateIRQ_answer : (updateIRQ s).answer = s.answer := rfl
@[simp] theorem updateIRQ_record : (updateIRQ s).record = s.record := rfl
@[simp] theorem updateIRQ_calls : (updateIRQ s).calls = s.calls := rfl
@[simp] theorem updateIRQ_phase : (updateIRQ s).phase = s.phase := rfl

@[simp] theorem takeCall_cfg (c : Call) (rest : List Call) (ph : ResetPhase) : (takeCall s c rest ph).cfg = s.cfg := rfl
@[simp] theorem takeCall_regs (c : Call) (rest : List Call) (ph : ResetPhase) : (takeCall s c rest ph).regs = s.regs := rfl
@[simp] theorem takeCall_irq (c : Call) (rest : List Call) (ph : ResetPhase) : (takeCall s c rest ph).irq = s.irq := rfl
@[simp] theorem takeCall_trace (c : Call) (rest : List Call) (ph : ResetPhase) : (takeCall s c rest ph).trace = s.trace := rfl
@[simp] theorem takeCall_answer (c : Call) (rest : List Call) (ph : ResetPhase) : (takeCall s c rest ph).answer = s.answer := rfl
@[simp] theorem takeCall_record (c : Call) (rest : List Call) (ph : ResetPhase) : (takeCall s c rest ph).record = c.record := rfl
@[simp] theorem takeCall_calls (c : Call) (rest : List Call) (ph : ResetPhase) : (takeCall s c rest ph).calls = rest := rfl
@[simp] theorem takeCall_phase (c : Call) (rest : List Call) (ph : ResetPhase) : (takeCall s c rest ph).phase = ph := rfl

@[simp] theorem withCall_cfg (c : Call) : (withCall s c).cfg = s.cfg := rfl
@[simp] theorem withCall_regs (c : Call) : (withCall s c).regs = s.regs := rfl
@[simp] theorem withCall_irq (c : Call) : (withCall s c).irq = s.irq := rfl
@[simp] theorem withCall_trace (c : Call) : (withCall s c).trace = s.trace := rfl
@[simp] theorem withCall_answer (c : Call) : (withCall s c).answer = s.answer := rfl
@[simp] theorem withCall_record (c : Call) : (withCall s c).record = s.record := rfl
@[simp] theorem withCall_calls (c : Call) : (withCall s c).calls = c :: s.calls := rfl
@[simp] theorem withCall_phase (c : Call) : (withCall s c).phase = s.phase := rfl

@[simp] theorem reg_setReg (r q : Reg) (v : Word) : reg (setReg s r v) q = if q = r then v else reg s q :=
  fileGet_fileSet s.regs r q v

@[simp] theorem reg_loadRegs (f : RegFile) (q : Reg) : reg (loadRegs s f) q = fileGet f q := rfl
@[simp] theorem reg_emit (e : Event) (q : Reg) : reg (emit s e) q = reg s q := rfl
@[simp] theorem reg_report (k : DiagKind) (offset : Offset) (q : Reg) : reg (report s k offset) q = reg s q := rfl
@[simp] theorem reg_driveLine (level : Bool) (q : Reg) : reg (driveLine s level) q = reg s q := rfl
@[simp] theorem reg_answerWith (a : Answer) (q : Reg) : reg (answerWith s a) q = reg s q := rfl
@[simp] theorem reg_updateIRQ (q : Reg) : reg (updateIRQ s) q = reg s q := rfl
@[simp] theorem reg_takeCall (c : Call) (rest : List Call) (ph : ResetPhase) (q : Reg) :
    reg (takeCall s c rest ph) q = reg s q := rfl
@[simp] theorem reg_withCall (c : Call) (q : Reg) : reg (withCall s c) q = reg s q := rfl

theorem fileGet_regs (q : Reg) : fileGet s.regs q = reg s q := rfl

end Sys2Proof.Machine
end

