-- ==== Sys2Proof/Laws/Ops.lean ====
section
/-! SUPPORT. For each shared operation one lemma that says once everything it does; later proofs cite these and do not
unfold the operation. -/

namespace Sys2Proof.Machine

/-- The level UpdateIRQ computes is the OR of R200. -/
theorem lineLevel_spec (s : State) : lineLevel s = true ↔ LineAsserted s := by
  have h : lineLevel s = ((rxEnabled s && rbfSet s) || (txEnabled s && tbeSet s)) := by
    unfold lineLevel
    cases (rxEnabled s && rbfSet s) <;> cases (txEnabled s && tbeSet s) <;> rfl
  simp only [h, Bool.or_eq_true, Bool.and_eq_true, rxEnabled, txEnabled, rbfSet, tbeSet, hasBit_iff, fileGet_regs]

theorem lineLevel_eq_decide (s : State) : lineLevel s = decide (LineAsserted s) := by
  rw [Bool.eq_iff_iff, lineLevel_spec, decide_eq_true_iff]

/-- The line's level depends on the parameters and on LINIER and UARTSR only (R200). -/
theorem lineAsserted_congr (s t : State) (hc : t.cfg = s.cfg) (hi : reg t .linier = reg s .linier)
    (hu : reg t .uartsr = reg s .uartsr) : LineAsserted t ↔ LineAsserted s := by
  simp only [LineAsserted, hc, hi, hu]

theorem updateIRQ_lineCurrent (s : State) : LineCurrent (updateIRQ s) := by
  rw [LineCurrent, updateIRQ_irq, lineLevel_spec]
  exact (lineAsserted_congr s (updateIRQ s) rfl rfl rfl).symm

/-- The common write procedure: the rule runs on the state with no answer, then the line is re-driven (R100). -/
theorem busWrite_spec (size : AccessSize) (data : Word) (rule : Word → State → State) (s : State) :
    ∃ t, busWrite size data rule s = .next t ∧
      (∀ r, reg t r = reg (rule (lowPart size data) (answerWith s .nothing)) r) ∧
      t.trace = (rule (lowPart size data) (answerWith s .nothing)).trace ++ [.irqLevel t.irq] ∧
      LineCurrent t ∧
      t.answer = (rule (lowPart size data) (answerWith s .nothing)).answer ∧
      t.cfg = (rule (lowPart size data) (answerWith s .nothing)).cfg ∧
      t.calls = (rule (lowPart size data) (answerWith s .nothing)).calls ∧
      t.record = (rule (lowPart size data) (answerWith s .nothing)).record ∧
      t.phase = (rule (lowPart size data) (answerWith s .nothing)).phase := by
  rw [busWrite, writeValue, lowBytes_eq_lowPart]
  exact ⟨_, rfl, fun _ => rfl, rfl, updateIRQ_lineCurrent _, rfl, rfl, rfl, rfl, rfl⟩

/-- The common read procedure: only the answer changes (R140). -/
theorem busRead_spec (size : AccessSize) (v : Word) (s : State) :
    busRead size v s = .next { s with answer := .value v (lowPart size v) } := by
  rw [busRead, deliveredValue, lowBytes_eq_lowPart]
  rfl

theorem readStored_spec (r : Reg) (size : AccessSize) (s : State) :
    readStored r size s = .next { s with answer := .value (reg s r) (lowPart size (reg s r)) } :=
  busRead_spec size (reg s r) s

/-- The inert store: one slot verbatim, one diagnostic (R123). -/
theorem storeInert_spec (r : Reg) (offset : Offset) (v : Word) (s : State) :
    (∀ q, reg (storeInert r offset v s) q = if q = r then v else reg s q) ∧
    (storeInert r offset v s).trace = s.trace ++ [.diag .unimplementedRegister offset] ∧
    (storeInert r offset v s).irq = s.irq ∧ (storeInert r offset v s).answer = s.answer ∧
    (storeInert r offset v s).cfg = s.cfg ∧ (storeInert r offset v s).calls = s.calls ∧
    (storeInert r offset v s).record = s.record ∧ (storeInert r offset v s).phase = s.phase := by
  refine ⟨fun q => ?_, rfl, rfl, rfl, rfl, rfl, rfl, rfl⟩
  simp [storeInert]

/-- The gate's answer is that no receive flag is set (R171). -/
theorem gateOpen_spec (s : State) : gateOpen s = true ↔ ¬ GateClosed s := by
  simp [gateOpen, rbfSet, rmbSet, fileGet_regs, ← hasBit_iff, GateClosed]

/-- The acknowledgement test of a UARTSR write (R106). -/
theorem acknowledgesReceive_spec (v : Word) (s : State) :
    acknowledgesReceive v s = true ↔
      (BitIn s.cfg.usrRbf (reg s .uartsr) ∧ BitIn s.cfg.usrRbf v) ∨
      (BitIn s.cfg.usrRmb (reg s .uartsr) ∧ BitIn s.cfg.usrRmb v) := by
  simp [acknowledgesReceive, rbfSet, rmbSet, fileGet_regs, ← hasBit_iff]

/-- Which records a post-load takes, and the registers they give (R236). -/
theorem recordRegs_spec (cfg : Params) (r : SnapshotRecord) (f : RegFile) :
    recordRegs cfg r = some f ↔ r.version = cfg.snapshotVersion ∧ r.words = fileWords f := by
  simp [recordRegs, fileOfWords_spec]

theorem recordRegs_saveSnapshot (s : State) : recordRegs s.cfg (saveSnapshot s) = some s.regs := by
  simp [recordRegs, saveSnapshot]

/-- When a call of an operation keeps the order of a reset (R230). -/
theorem phaseAfter_spec (ph ph' : ResetPhase) (i : Instr) :
    phaseAfter ph i = some ph' ↔
      ph = phaseBefore i ∧
        ph' = if i = .rstEnter then .entered else if i = .rstHold then .held else .running := by
  cases ph <;> cases i <;> cases ph' <;> simp [phaseAfter, phaseBefore]

/-- An operation may be called in the phase `readyFor` puts the state in. -/
theorem phaseAfter_phaseBefore (i : Instr) : ∃ ph, phaseAfter (phaseBefore i) i = some ph :=
  ⟨_, (phaseAfter_spec _ _ _).2 ⟨rfl, rfl⟩⟩

/-- What `readyFor` changes: the phase, for a pair that spells an operation. -/
theorem readyFor_spec (s : State) (w d : Word) :
    (∀ i, decode w d = .ok i → readyFor s w d = { s with phase := phaseBefore i }) ∧
    (∀ form, decode w d = .error form → readyFor s w d = s) :=
  ⟨fun i h => by rw [readyFor, h], fun form h => by rw [readyFor, h]⟩

/-- What the next operation is: nothing pending, a refusal by name, or the decoded first call. -/
theorem nextOperation_cases (s : State) :
    (s.calls = [] ∧ nextOperation s = none) ∨
    (∃ c rest, s.calls = c :: rest ∧
      ((∃ form, decode c.w c.d = .error form ∧ nextOperation s = some (.error (.reservedEncoding form))) ∨
       (∃ i, decode c.w c.d = .ok i ∧ phaseAfter s.phase i = none ∧
          nextOperation s = some (.error .resetOrderBroken)) ∨
       (∃ i ph r, decode c.w c.d = .ok i ∧ phaseAfter s.phase i = some ph ∧ notPermitted i s = some r ∧
          nextOperation s = some (.error r)) ∨
       (∃ i ph, decode c.w c.d = .ok i ∧ phaseAfter s.phase i = some ph ∧ notPermitted i s = none ∧
          nextOperation s = some (.ok (i, takeCall s c rest ph))))) := by
  cases hc : s.calls with
  | nil => exact .inl ⟨rfl, by simp [nextOperation, hc]⟩
  | cons c rest =>
    refine .inr ⟨c, rest, rfl, ?_⟩
    cases hd : decode c.w c.d with
    | error form => exact .inl ⟨form, rfl, by simp [nextOperation, hc, hd]⟩
    | ok i =>
      cases ho : phaseAfter s.phase i with
      | none => exact .inr (.inl ⟨i, rfl, ho, by simp [nextOperation, hc, hd, ho]⟩)
      | some ph =>
        cases hp : notPermitted i s with
        | some r => exact .inr (.inr (.inl ⟨i, ph, r, rfl, ho, hp, by simp [nextOperation, hc, hd, ho, hp]⟩))
        | none => exact .inr (.inr (.inr ⟨i, ph, rfl, ho, hp, by simp [nextOperation, hc, hd, ho, hp]⟩))

/-- A step that answers next is idle or runs the decoded first call, in the order of a reset (R73, R230). -/
theorem step_next_cases (s t : State) (h : step s = .next t) :
    (s.calls = [] ∧ t = s) ∨
    (∃ c rest i ph, s.calls = c :: rest ∧ decode c.w c.d = .ok i ∧ phaseAfter s.phase i = some ph ∧
      notPermitted i s = none ∧ exec i (takeCall s c rest ph) = .next t) := by
  rcases nextOperation_cases s with
      ⟨hc, hn⟩ | ⟨c, rest, hc, ⟨f, _, hn⟩ | ⟨i, _, _, hn⟩ | ⟨i, ph, r, _, _, _, hn⟩ | ⟨i, ph, hd, ho, hp, hn⟩⟩ <;>
    rw [step, hn] at h
  · exact .inl ⟨hc, by simpa using h.symm⟩
  · cases h
  · cases h
  · cases h
  · exact .inr ⟨c, rest, i, ph, hc, hd, ho, hp, h⟩

end Sys2Proof.Machine
end

