-- ==== Sys2Proof/Laws/Exec.lean ====
section
/-! SUPPORT. What each register rule does, once, and the operations grouped by shape: every operation is the read of a
register, the write of a register, or one of eight others, so that a proof over all operations has ten cases, not fifty. -/

namespace Sys2Proof.Machine

/-- The rule of each register's write (R101 to R121). -/
def writeRule (r : Reg) (offset : Offset) : Word → State → State :=
  match r with
  | .lincr1 => writeLincr1
  | .linier => writeLinier
  | .uartcr => writeUartcr
  | .uartsr => writeUartsr
  | .bdrl => writeBdrl
  | r => storeInert r offset

/-- The state a register's read runs in: only LINCR1's storage is touched (R141). -/
def readTouch (r : Reg) (s : State) : State :=
  match r with
  | .lincr1 => forceLincr1 s
  | _ => s

theorem exec_readOf (r : Reg) (size : AccessSize) (lane : Lane) (s : State) :
    exec (readOf r size lane) s = busRead size (readView r (reg s r)) (readTouch r s) := by
  cases r <;> rfl

theorem exec_writeOf (r : Reg) (size : AccessSize) (lane : Lane) (data : Word) (s : State) :
    exec (writeOf r size lane data) s = busWrite size data (writeRule r (regOffset r lane)) s := by
  cases r <;> rfl

theorem exec_rdInvalid (size : AccessSize) (offset : Offset) (s : State) :
    exec (.rdInvalid size offset) s = busRead size 0#32 (report s .invalidRegister offset) := rfl

theorem exec_wrInvalid (size : AccessSize) (offset : Offset) (data : Word) (s : State) :
    exec (.wrInvalid size offset data) s = busWrite size data (fun _ => writeInvalid offset) s := rfl

/-- The operations by shape. -/
theorem instr_shapes {P : Instr → Prop} (read : ∀ r size lane, P (readOf r size lane))
    (write : ∀ r size lane data, P (writeOf r size lane data)) (rdInvalid : ∀ size offset, P (.rdInvalid size offset))
    (wrInvalid : ∀ size offset data, P (.wrInvalid size offset data)) (gate : P .gate) (rx : ∀ byte, P (.rx byte))
    (rstEnter : P .rstEnter) (rstHold : P .rstHold) (rstExit : P .rstExit) (postload : P .postload) (i : Instr) :
    P i := by
  cases i
  case rdLincr1 => exact read .lincr1 _ _
  case rdLinier => exact read .linier _ _
  case rdLinsr => exact read .linsr _ _
  case rdLinesr => exact read .linesr _ _
  case rdUartcr => exact read .uartcr _ _
  case rdUartsr => exact read .uartsr _ _
  case rdLintcsr => exact read .lintcsr _ _
  case rdLinocr => exact read .linocr _ _
  case rdLintocr => exact read .lintocr _ _
  case rdLinfbrr => exact read .linfbrr _ _
  case rdLinibrr => exact read .linibrr _ _
  case rdLincfr => exact read .lincfr _ _
  case rdLincr2 => exact read .lincr2 _ _
  case rdBidr => exact read .bidr _ _
  case rdBdrl => exact read .bdrl _ _
  case rdBdrm => exact read .bdrm _ _
  case rdGcr => exact read .gcr _ _
  case rdUartpto => exact read .uartpto _ _
  case rdUartcto => exact read .uartcto _ _
  case rdDmatxe => exact read .dmatxe _ _
  case rdDmarxe => exact read .dmarxe _ _
  case wrLincr1 => exact write .lincr1 _ _ _
  case wrLinier => exact write .linier _ _ _
  case wrLinsr => exact write .linsr _ _ _
  case wrLinesr => exact write .linesr _ _ _
  case wrUartcr => exact write .uartcr _ _ _
  case wrUartsr => exact write .uartsr _ _ _
  case wrLintcsr => exact write .lintcsr _ _ _
  case wrLinocr => exact write .linocr _ _ _
  case wrLintocr => exact write .lintocr _ _ _
  case wrLinfbrr => exact write .linfbrr _ _ _
  case wrLinibrr => exact write .linibrr _ _ _
  case wrLincfr => exact write .lincfr _ _ _
  case wrLincr2 => exact write .lincr2 _ _ _
  case wrBidr => exact write .bidr _ _ _
  case wrBdrl => exact write .bdrl _ _ _
  case wrBdrm => exact write .bdrm _ _ _
  case wrGcr => exact write .gcr _ _ _
  case wrUartpto => exact write .uartpto _ _ _
  case wrUartcto => exact write .uartcto _ _ _
  case wrDmatxe => exact write .dmatxe _ _ _
  case wrDmarxe => exact write .dmarxe _ _ _
  case rdInvalid => exact rdInvalid _ _
  case wrInvalid => exact wrInvalid _ _ _
  case gate => exact gate
  case rx => exact rx _
  case rstEnter => exact rstEnter
  case rstHold => exact rstHold
  case rstExit => exact rstExit
  case postload => exact postload

theorem readAt_valid (r : Reg) (offset : Offset) (size : AccessSize) (h : offset.toNat / 4 = regIndex r) :
    readAt offset size = readOf r size (offset.extractLsb' 0 2) := by
  simp [readAt, h]

theorem readAt_invalid (offset : Offset) (size : AccessSize) (h : 20 < offset.toNat / 4) :
    readAt offset size = .rdInvalid size offset := by
  simp [readAt, (regOfIndex_none_iff _).2 h]

theorem writeAt_valid (r : Reg) (offset : Offset) (size : AccessSize) (data : Word)
    (h : offset.toNat / 4 = regIndex r) :
    writeAt offset size data = writeOf r size (offset.extractLsb' 0 2) data := by
  simp [writeAt, h]

theorem writeAt_invalid (offset : Offset) (size : AccessSize) (data : Word) (h : 20 < offset.toNat / 4) :
    writeAt offset size data = .wrInvalid size offset data := by
  simp [writeAt, (regOfIndex_none_iff _).2 h]

/-- An offset selects a register or none (20_memory.md R63). -/
theorem offset_cases (offset : Offset) : (∃ r, offset.toNat / 4 = regIndex r) ∨ 20 < offset.toNat / 4 := by
  cases h : regOfIndex (offset.toNat / 4) with
  | none => exact .inr ((regOfIndex_none_iff _).1 h)
  | some r => exact .inl ⟨r, (regOfIndex_spec _ _).1 h⟩

/-! The five register rules that are not the inert store. -/

theorem writeLincr1_reg (v : Word) (s : State) (q : Reg) :
    reg (writeLincr1 v s) q =
      if q = .lincr1 then v &&& 0x0001DF27#32
      else if q = .linsr ∧ BitIn s.cfg.cr1Init (v &&& 0x0001DF27#32) then reg s .linsr ||| s.cfg.lsrInit
      else reg s q := by
  unfold writeLincr1
  by_cases h : BitIn s.cfg.cr1Init (v &&& cr1WMask)
  · have h' : hasBit (v &&& cr1WMask) s.cfg.cr1Init = true := (hasBit_iff _ _).2 h
    have h'' : BitIn s.cfg.cr1Init (v &&& 0x0001DF27#32) := h
    simp only [reg_setReg, setReg_cfg, if_true, h']
    cases q <;> simp [cr1WMask, h'']
  · have h' : ¬ hasBit (v &&& cr1WMask) s.cfg.cr1Init = true := fun e => h ((hasBit_iff _ _).1 e)
    have h'' : ¬ BitIn s.cfg.cr1Init (v &&& 0x0001DF27#32) := h
    simp only [reg_setReg, setReg_cfg, if_true, h']
    cases q <;> simp [cr1WMask, h'']

theorem writeLinier_reg (v : Word) (s : State) (q : Reg) :
    reg (writeLinier v s) q = if q = .linier then v &&& 0x0000FFFF#32 else reg s q := by
  simp [writeLinier, ierWMask]

/-- What the mode cases of R105 leave in UARTCR. -/
theorem writeUartcr_reg (v : Word) (s : State) (q : Reg) :
    reg (writeUartcr v s) q =
      if q = .uartcr then
        if InitMode s then
          if BitIn s.cfg.ucrUart (reg s .uartcr ||| (v &&& s.cfg.ucrUart)) then
            reg s .uartcr ||| (v &&& s.cfg.ucrUart) ||| v
          else reg s .uartcr ||| (v &&& s.cfg.ucrUart)
        else if UartModeOn s then reg s .uartcr ||| (v &&& 0x0070FC30#32)
        else reg s .uartcr
      else reg s q := by
  have hi : inInit s = true ↔ InitMode s := hasBit_iff _ _
  have hu : uartMode s = true ↔ UartModeOn s := hasBit_iff _ _
  have hm : uartMode (setReg s .uartcr (reg s .uartcr ||| (v &&& s.cfg.ucrUart))) = true ↔
      BitIn s.cfg.ucrUart (reg s .uartcr ||| (v &&& s.cfg.ucrUart)) := by
    simp only [uartMode, fileGet_regs, reg_setReg, if_true, setReg_cfg]
    exact hasBit_iff _ _
  unfold writeUartcr
  simp only [hi, hu, hm]
  by_cases h₁ : InitMode s
  · by_cases h₂ : BitIn s.cfg.ucrUart (reg s .uartcr ||| (v &&& s.cfg.ucrUart))
    · rw [if_pos h₁, if_pos h₂, if_pos h₁, if_pos h₂]
      by_cases hq : q = .uartcr <;> simp [hq]
    · rw [if_pos h₁, if_neg h₂, if_pos h₁, if_neg h₂]
      by_cases hq : q = .uartcr <;> simp [hq]
  · by_cases h₂ : UartModeOn s
    · rw [if_neg h₁, if_pos h₂, if_neg h₁, if_pos h₂]
      by_cases hq : q = .uartcr <;> simp [hq, ucrPostWMask]
    · rw [if_neg h₁, if_neg h₂, if_neg h₁, if_neg h₂]
      by_cases hq : q = .uartcr <;> simp [hq]

theorem writeUartsr_reg (v : Word) (s : State) (q : Reg) :
    reg (writeUartsr v s) q =
      if q = .uartsr then reg s .uartsr &&& ~~~(v &&& 0x0000FFFF#32) else reg s q := by
  unfold writeUartsr
  by_cases h : acknowledgesReceive (v &&& usrWMask) s = true
  · simp only [h, if_true, reg_setReg, reg_emit]; rfl
  · simp only [h, reg_setReg]; rfl

theorem writeUartsr_trace (v : Word) (s : State) :
    (writeUartsr v s).trace =
      s.trace ++ if (BitIn s.cfg.usrRbf (reg s .uartsr) ∧ BitIn s.cfg.usrRbf (v &&& 0x0000FFFF#32)) ∨
          (BitIn s.cfg.usrRmb (reg s .uartsr) ∧ BitIn s.cfg.usrRmb (v &&& 0x0000FFFF#32)) then [.resume] else [] := by
  have h := acknowledgesReceive_spec (v &&& 0x0000FFFF#32) s
  unfold writeUartsr usrWMask
  by_cases hc : acknowledgesReceive (v &&& 0x0000FFFF#32) s = true
  · rw [if_pos (h.1 hc)]
    simp only [hc, if_true, setReg_trace, emit_trace]
  · rw [if_neg fun e => hc (h.2 e)]
    simp only [hc, setReg_trace, List.append_nil]
    rfl

theorem writeBdrl_reg (v : Word) (s : State) (q : Reg) :
    reg (writeBdrl v s) q =
      if q = .uartsr then reg s .uartsr ||| s.cfg.usrTbe else if q = .bdrl then v else reg s q := by
  simp only [writeBdrl, reg_setReg, reg_emit, emit_cfg, setReg_cfg]
  cases q <;> rfl

/-- A register rule changes registers and the trace only. -/
theorem writeRule_kept (r : Reg) (offset : Offset) (v : Word) (s : State) :
    (writeRule r offset v s).cfg = s.cfg ∧ (writeRule r offset v s).calls = s.calls ∧
    (writeRule r offset v s).record = s.record ∧ (writeRule r offset v s).answer = s.answer ∧
    (writeRule r offset v s).irq = s.irq ∧ (writeRule r offset v s).phase = s.phase := by
  cases r
  case lincr1 =>
    simp only [writeRule, writeLincr1]
    split <;> exact ⟨rfl, rfl, rfl, rfl, rfl, rfl⟩
  case uartcr =>
    simp only [writeRule, writeUartcr]
    split
    · split <;> exact ⟨rfl, rfl, rfl, rfl, rfl, rfl⟩
    · split <;> exact ⟨rfl, rfl, rfl, rfl, rfl, rfl⟩
  case uartsr =>
    simp only [writeRule, writeUartsr]
    split <;> exact ⟨rfl, rfl, rfl, rfl, rfl, rfl⟩
  all_goals exact ⟨rfl, rfl, rfl, rfl, rfl, rfl⟩

/-- What a register rule emits before the line is re-driven. -/
theorem writeRule_trace (r : Reg) (offset : Offset) (v : Word) (s : State) :
    (writeRule r offset v s).trace =
      s.trace ++ match r with
        | .lincr1 => []
        | .linier => []
        | .uartcr => []
        | .uartsr =>
          if (BitIn s.cfg.usrRbf (reg s .uartsr) ∧ BitIn s.cfg.usrRbf (v &&& 0x0000FFFF#32)) ∨
            (BitIn s.cfg.usrRmb (reg s .uartsr) ∧ BitIn s.cfg.usrRmb (v &&& 0x0000FFFF#32)) then [.resume] else []
        | .bdrl => [.txByte (charByte v)]
        | _ => [.diag .unimplementedRegister offset] := by
  cases r
  case lincr1 =>
    simp only [writeRule, writeLincr1, List.append_nil]
    split <;> rfl
  case uartcr =>
    simp only [writeRule, writeUartcr, List.append_nil]
    split
    · split <;> rfl
    · split <;> rfl
  case linier => simp [writeRule, writeLinier]
  case uartsr => exact writeUartsr_trace v s
  all_goals rfl

/-- POSTLOAD answers next exactly for a record of the right format, and then only the registers, the answer and the line
change (R235). -/
theorem exec_postload_next (s t : State) :
    exec .postload s = .next t ↔
      ∃ r f, s.record = some r ∧ recordRegs s.cfg r = some f ∧
        t = updateIRQ (loadRegs (answerWith s .nothing) f) := by
  show execPostload s = .next t ↔ _
  unfold execPostload
  cases hr : s.record with
  | none => simp
  | some r =>
    cases hf : recordRegs s.cfg r with
    | none => simp [hf]
    | some f =>
      simp only [hf, Host.Outcome.next.injEq, Option.some.injEq]
      constructor
      · rintro rfl
        exact ⟨r, f, rfl, hf, rfl⟩
      · rintro ⟨r', f', rfl, hf', rfl⟩
        rw [hf] at hf'
        cases hf'
        rfl

end Sys2Proof.Machine
end

