-- ==== Sys2Proof/Laws/PerInstr.lean ====
section
/-! SUPPORT. The statements made instruction by instruction. Family `TableRow`: the operation word the encoder writes
matches the operation's row of spec/opcode_table.json. -/

namespace Sys2Proof.Laws

/-- The `mask` and `match` columns of the operation's row of spec/opcode_table.json. -/
def tableRow : Instr → Word × Word
  | .rdLincr1 _ _ => (0xFCFFFFFC#32, 0x00000000#32)
  | .rdLinier _ _ => (0xFCFFFFFC#32, 0x00000004#32)
  | .rdLinsr _ _ => (0xFCFFFFFC#32, 0x00000008#32)
  | .rdLinesr _ _ => (0xFCFFFFFC#32, 0x0000000C#32)
  | .rdUartcr _ _ => (0xFCFFFFFC#32, 0x00000010#32)
  | .rdUartsr _ _ => (0xFCFFFFFC#32, 0x00000014#32)
  | .rdLintcsr _ _ => (0xFCFFFFFC#32, 0x00000018#32)
  | .rdLinocr _ _ => (0xFCFFFFFC#32, 0x0000001C#32)
  | .rdLintocr _ _ => (0xFCFFFFFC#32, 0x00000020#32)
  | .rdLinfbrr _ _ => (0xFCFFFFFC#32, 0x00000024#32)
  | .rdLinibrr _ _ => (0xFCFFFFFC#32, 0x00000028#32)
  | .rdLincfr _ _ => (0xFCFFFFFC#32, 0x0000002C#32)
  | .rdLincr2 _ _ => (0xFCFFFFFC#32, 0x00000030#32)
  | .rdBidr _ _ => (0xFCFFFFFC#32, 0x00000034#32)
  | .rdBdrl _ _ => (0xFCFFFFFC#32, 0x00000038#32)
  | .rdBdrm _ _ => (0xFCFFFFFC#32, 0x0000003C#32)
  | .rdGcr _ _ => (0xFCFFFFFC#32, 0x00000040#32)
  | .rdUartpto _ _ => (0xFCFFFFFC#32, 0x00000044#32)
  | .rdUartcto _ _ => (0xFCFFFFFC#32, 0x00000048#32)
  | .rdDmatxe _ _ => (0xFCFFFFFC#32, 0x0000004C#32)
  | .rdDmarxe _ _ => (0xFCFFFFFC#32, 0x00000050#32)
  | .wrLincr1 _ _ _ => (0xFCFFFFFC#32, 0x20000000#32)
  | .wrLinier _ _ _ => (0xFCFFFFFC#32, 0x20000004#32)
  | .wrLinsr _ _ _ => (0xFCFFFFFC#32, 0x20000008#32)
  | .wrLinesr _ _ _ => (0xFCFFFFFC#32, 0x2000000C#32)
  | .wrUartcr _ _ _ => (0xFCFFFFFC#32, 0x20000010#32)
  | .wrUartsr _ _ _ => (0xFCFFFFFC#32, 0x20000014#32)
  | .wrLintcsr _ _ _ => (0xFCFFFFFC#32, 0x20000018#32)
  | .wrLinocr _ _ _ => (0xFCFFFFFC#32, 0x2000001C#32)
  | .wrLintocr _ _ _ => (0xFCFFFFFC#32, 0x20000020#32)
  | .wrLinfbrr _ _ _ => (0xFCFFFFFC#32, 0x20000024#32)
  | .wrLinibrr _ _ _ => (0xFCFFFFFC#32, 0x20000028#32)
  | .wrLincfr _ _ _ => (0xFCFFFFFC#32, 0x2000002C#32)
  | .wrLincr2 _ _ _ => (0xFCFFFFFC#32, 0x20000030#32)
  | .wrBidr _ _ _ => (0xFCFFFFFC#32, 0x20000034#32)
  | .wrBdrl _ _ _ => (0xFCFFFFFC#32, 0x20000038#32)
  | .wrBdrm _ _ _ => (0xFCFFFFFC#32, 0x2000003C#32)
  | .wrGcr _ _ _ => (0xFCFFFFFC#32, 0x20000040#32)
  | .wrUartpto _ _ _ => (0xFCFFFFFC#32, 0x20000044#32)
  | .wrUartcto _ _ _ => (0xFCFFFFFC#32, 0x20000048#32)
  | .wrDmatxe _ _ _ => (0xFCFFFFFC#32, 0x2000004C#32)
  | .wrDmarxe _ _ _ => (0xFCFFFFFC#32, 0x20000050#32)
  | .rdInvalid _ _ => (0xFCFFF000#32, 0x00000000#32)
  | .wrInvalid _ _ _ => (0xFCFFF000#32, 0x20000000#32)
  | .gate => (0xFFFFFFFF#32, 0x40000000#32)
  | .rx _ => (0xFFFFFFFF#32, 0x60000000#32)
  | .rstEnter => (0xFFFFFFFF#32, 0x80000000#32)
  | .rstHold => (0xFFFFFFFF#32, 0xA0000000#32)
  | .rstExit => (0xFFFFFFFF#32, 0xC0000000#32)
  | .postload => (0xFFFFFFFF#32, 0xE0000000#32)

/-- The encoded operation word, under its row's mask, is its row's match. -/
def TableRow.Statement (i : Instr) : Prop :=
  (encode i).1 &&& (tableRow i).1 = (tableRow i).2

/-- A register operation's word under the mask `0xFCFFFFFC` is its kind and its index; the size and lane bits are free. -/
theorem registerWord_masked (k : BitVec 3) (r : Reg) (size : AccessSize) (lane : Lane) :
    operationWord k (sizeField size) (regOffset r lane) &&& 0xFCFFFFFC#32 =
      operationWord k 0#2 (regOffset r 0#2) := by
  revert k lane
  cases size <;> cases r <;> decide

/-- An INVALID operation's word under the mask `0xFCFFF000` is its kind; the size and the offset are free. -/
theorem invalidWord_masked (k : BitVec 3) (size : AccessSize) (offset : Offset) :
    operationWord k (sizeField size) offset &&& 0xFCFFF000#32 = operationWord k 0#2 0#12 := by
  have hsplit : operationWord k (sizeField size) offset =
      operationWord k (sizeField size) 0#12 ||| offset.setWidth 32 := by
    apply BitVec.eq_of_getLsbD_eq
    intro j hj
    simp only [operationWord, BitVec.getLsbD_append, BitVec.getLsbD_or, BitVec.getLsbD_setWidth, hj]
    by_cases h : j < 12
    · simp [h, show j < 24 by omega, show j < 26 by omega, show j < 29 by omega]
    · simp [h, BitVec.getLsbD_of_ge offset j (by omega)]
  have hlow : offset.setWidth 32 &&& 0xFCFFF000#32 = 0#32 := by
    apply BitVec.eq_of_getLsbD_eq
    intro j hj
    by_cases h : j < 12
    · have : j ∈ List.range 12 := by simpa using h
      fin_cases this <;> simp
    · simp [BitVec.getLsbD_of_ge offset j (by omega)]
  have hand : ∀ a b c : Word, (a ||| b) &&& c = a &&& c ||| b &&& c := by
    intro a b c
    ext
    simp [Bool.and_or_distrib_right]
  rw [hsplit, hand, hlow, BitVec.or_zero]
  clear hsplit hlow
  revert k
  cases size <;> decide

theorem TableRow.rdLincr1 (size : AccessSize) (lane : Lane) :
    TableRow.Statement (.rdLincr1 size lane) :=
  (registerWord_masked 0#3 .lincr1 size lane).trans
    (by decide : operationWord 0#3 0#2 (regOffset .lincr1 0#2) = 0x00000000#32)

theorem TableRow.rdLinier (size : AccessSize) (lane : Lane) :
    TableRow.Statement (.rdLinier size lane) :=
  (registerWord_masked 0#3 .linier size lane).trans
    (by decide : operationWord 0#3 0#2 (regOffset .linier 0#2) = 0x00000004#32)

theorem TableRow.rdLinsr (size : AccessSize) (lane : Lane) :
    TableRow.Statement (.rdLinsr size lane) :=
  (registerWord_masked 0#3 .linsr size lane).trans
    (by decide : operationWord 0#3 0#2 (regOffset .linsr 0#2) = 0x00000008#32)

theorem TableRow.rdLinesr (size : AccessSize) (lane : Lane) :
    TableRow.Statement (.rdLinesr size lane) :=
  (registerWord_masked 0#3 .linesr size lane).trans
    (by decide : operationWord 0#3 0#2 (regOffset .linesr 0#2) = 0x0000000C#32)

theorem TableRow.rdUartcr (size : AccessSize) (lane : Lane) :
    TableRow.Statement (.rdUartcr size lane) :=
  (registerWord_masked 0#3 .uartcr size lane).trans
    (by decide : operationWord 0#3 0#2 (regOffset .uartcr 0#2) = 0x00000010#32)

theorem TableRow.rdUartsr (size : AccessSize) (lane : Lane) :
    TableRow.Statement (.rdUartsr size lane) :=
  (registerWord_masked 0#3 .uartsr size lane).trans
    (by decide : operationWord 0#3 0#2 (regOffset .uartsr 0#2) = 0x00000014#32)

theorem TableRow.rdLintcsr (size : AccessSize) (lane : Lane) :
    TableRow.Statement (.rdLintcsr size lane) :=
  (registerWord_masked 0#3 .lintcsr size lane).trans
    (by decide : operationWord 0#3 0#2 (regOffset .lintcsr 0#2) = 0x00000018#32)

theorem TableRow.rdLinocr (size : AccessSize) (lane : Lane) :
    TableRow.Statement (.rdLinocr size lane) :=
  (registerWord_masked 0#3 .linocr size lane).trans
    (by decide : operationWord 0#3 0#2 (regOffset .linocr 0#2) = 0x0000001C#32)

theorem TableRow.rdLintocr (size : AccessSize) (lane : Lane) :
    TableRow.Statement (.rdLintocr size lane) :=
  (registerWord_masked 0#3 .lintocr size lane).trans
    (by decide : operationWord 0#3 0#2 (regOffset .lintocr 0#2) = 0x00000020#32)

theorem TableRow.rdLinfbrr (size : AccessSize) (lane : Lane) :
    TableRow.Statement (.rdLinfbrr size lane) :=
  (registerWord_masked 0#3 .linfbrr size lane).trans
    (by decide : operationWord 0#3 0#2 (regOffset .linfbrr 0#2) = 0x00000024#32)

theorem TableRow.rdLinibrr (size : AccessSize) (lane : Lane) :
    TableRow.Statement (.rdLinibrr size lane) :=
  (registerWord_masked 0#3 .linibrr size lane).trans
    (by decide : operationWord 0#3 0#2 (regOffset .linibrr 0#2) = 0x00000028#32)

theorem TableRow.rdLincfr (size : AccessSize) (lane : Lane) :
    TableRow.Statement (.rdLincfr size lane) :=
  (registerWord_masked 0#3 .lincfr size lane).trans
    (by decide : operationWord 0#3 0#2 (regOffset .lincfr 0#2) = 0x0000002C#32)

theorem TableRow.rdLincr2 (size : AccessSize) (lane : Lane) :
    TableRow.Statement (.rdLincr2 size lane) :=
  (registerWord_masked 0#3 .lincr2 size lane).trans
    (by decide : operationWord 0#3 0#2 (regOffset .lincr2 0#2) = 0x00000030#32)

theorem TableRow.rdBidr (size : AccessSize) (lane : Lane) :
    TableRow.Statement (.rdBidr size lane) :=
  (registerWord_masked 0#3 .bidr size lane).trans
    (by decide : operationWord 0#3 0#2 (regOffset .bidr 0#2) = 0x00000034#32)

theorem TableRow.rdBdrl (size : AccessSize) (lane : Lane) :
    TableRow.Statement (.rdBdrl size lane) :=
  (registerWord_masked 0#3 .bdrl size lane).trans
    (by decide : operationWord 0#3 0#2 (regOffset .bdrl 0#2) = 0x00000038#32)

theorem TableRow.rdBdrm (size : AccessSize) (lane : Lane) :
    TableRow.Statement (.rdBdrm size lane) :=
  (registerWord_masked 0#3 .bdrm size lane).trans
    (by decide : operationWord 0#3 0#2 (regOffset .bdrm 0#2) = 0x0000003C#32)

theorem TableRow.rdGcr (size : AccessSize) (lane : Lane) :
    TableRow.Statement (.rdGcr size lane) :=
  (registerWord_masked 0#3 .gcr size lane).trans
    (by decide : operationWord 0#3 0#2 (regOffset .gcr 0#2) = 0x00000040#32)

theorem TableRow.rdUartpto (size : AccessSize) (lane : Lane) :
    TableRow.Statement (.rdUartpto size lane) :=
  (registerWord_masked 0#3 .uartpto size lane).trans
    (by decide : operationWord 0#3 0#2 (regOffset .uartpto 0#2) = 0x00000044#32)

theorem TableRow.rdUartcto (size : AccessSize) (lane : Lane) :
    TableRow.Statement (.rdUartcto size lane) :=
  (registerWord_masked 0#3 .uartcto size lane).trans
    (by decide : operationWord 0#3 0#2 (regOffset .uartcto 0#2) = 0x00000048#32)

theorem TableRow.rdDmatxe (size : AccessSize) (lane : Lane) :
    TableRow.Statement (.rdDmatxe size lane) :=
  (registerWord_masked 0#3 .dmatxe size lane).trans
    (by decide : operationWord 0#3 0#2 (regOffset .dmatxe 0#2) = 0x0000004C#32)

theorem TableRow.rdDmarxe (size : AccessSize) (lane : Lane) :
    TableRow.Statement (.rdDmarxe size lane) :=
  (registerWord_masked 0#3 .dmarxe size lane).trans
    (by decide : operationWord 0#3 0#2 (regOffset .dmarxe 0#2) = 0x00000050#32)

theorem TableRow.wrLincr1 (size : AccessSize) (lane : Lane) (data : Word) :
    TableRow.Statement (.wrLincr1 size lane data) :=
  (registerWord_masked 1#3 .lincr1 size lane).trans
    (by decide : operationWord 1#3 0#2 (regOffset .lincr1 0#2) = 0x20000000#32)

theorem TableRow.wrLinier (size : AccessSize) (lane : Lane) (data : Word) :
    TableRow.Statement (.wrLinier size lane data) :=
  (registerWord_masked 1#3 .linier size lane).trans
    (by decide : operationWord 1#3 0#2 (regOffset .linier 0#2) = 0x20000004#32)

theorem TableRow.wrLinsr (size : AccessSize) (lane : Lane) (data : Word) :
    TableRow.Statement (.wrLinsr size lane data) :=
  (registerWord_masked 1#3 .linsr size lane).trans
    (by decide : operationWord 1#3 0#2 (regOffset .linsr 0#2) = 0x20000008#32)

theorem TableRow.wrLinesr (size : AccessSize) (lane : Lane) (data : Word) :
    TableRow.Statement (.wrLinesr size lane data) :=
  (registerWord_masked 1#3 .linesr size lane).trans
    (by decide : operationWord 1#3 0#2 (regOffset .linesr 0#2) = 0x2000000C#32)

theorem TableRow.wrUartcr (size : AccessSize) (lane : Lane) (data : Word) :
    TableRow.Statement (.wrUartcr size lane data) :=
  (registerWord_masked 1#3 .uartcr size lane).trans
    (by decide : operationWord 1#3 0#2 (regOffset .uartcr 0#2) = 0x20000010#32)

theorem TableRow.wrUartsr (size : AccessSize) (lane : Lane) (data : Word) :
    TableRow.Statement (.wrUartsr size lane data) :=
  (registerWord_masked 1#3 .uartsr size lane).trans
    (by decide : operationWord 1#3 0#2 (regOffset .uartsr 0#2) = 0x20000014#32)

theorem TableRow.wrLintcsr (size : AccessSize) (lane : Lane) (data : Word) :
    TableRow.Statement (.wrLintcsr size lane data) :=
  (registerWord_masked 1#3 .lintcsr size lane).trans
    (by decide : operationWord 1#3 0#2 (regOffset .lintcsr 0#2) = 0x20000018#32)

theorem TableRow.wrLinocr (size : AccessSize) (lane : Lane) (data : Word) :
    TableRow.Statement (.wrLinocr size lane data) :=
  (registerWord_masked 1#3 .linocr size lane).trans
    (by decide : operationWord 1#3 0#2 (regOffset .linocr 0#2) = 0x2000001C#32)

theorem TableRow.wrLintocr (size : AccessSize) (lane : Lane) (data : Word) :
    TableRow.Statement (.wrLintocr size lane data) :=
  (registerWord_masked 1#3 .lintocr size lane).trans
    (by decide : operationWord 1#3 0#2 (regOffset .lintocr 0#2) = 0x20000020#32)

theorem TableRow.wrLinfbrr (size : AccessSize) (lane : Lane) (data : Word) :
    TableRow.Statement (.wrLinfbrr size lane data) :=
  (registerWord_masked 1#3 .linfbrr size lane).trans
    (by decide : operationWord 1#3 0#2 (regOffset .linfbrr 0#2) = 0x20000024#32)

theorem TableRow.wrLinibrr (size : AccessSize) (lane : Lane) (data : Word) :
    TableRow.Statement (.wrLinibrr size lane data) :=
  (registerWord_masked 1#3 .linibrr size lane).trans
    (by decide : operationWord 1#3 0#2 (regOffset .linibrr 0#2) = 0x20000028#32)

theorem TableRow.wrLincfr (size : AccessSize) (lane : Lane) (data : Word) :
    TableRow.Statement (.wrLincfr size lane data) :=
  (registerWord_masked 1#3 .lincfr size lane).trans
    (by decide : operationWord 1#3 0#2 (regOffset .lincfr 0#2) = 0x2000002C#32)

theorem TableRow.wrLincr2 (size : AccessSize) (lane : Lane) (data : Word) :
    TableRow.Statement (.wrLincr2 size lane data) :=
  (registerWord_masked 1#3 .lincr2 size lane).trans
    (by decide : operationWord 1#3 0#2 (regOffset .lincr2 0#2) = 0x20000030#32)

theorem TableRow.wrBidr (size : AccessSize) (lane : Lane) (data : Word) :
    TableRow.Statement (.wrBidr size lane data) :=
  (registerWord_masked 1#3 .bidr size lane).trans
    (by decide : operationWord 1#3 0#2 (regOffset .bidr 0#2) = 0x20000034#32)

theorem TableRow.wrBdrl (size : AccessSize) (lane : Lane) (data : Word) :
    TableRow.Statement (.wrBdrl size lane data) :=
  (registerWord_masked 1#3 .bdrl size lane).trans
    (by decide : operationWord 1#3 0#2 (regOffset .bdrl 0#2) = 0x20000038#32)

theorem TableRow.wrBdrm (size : AccessSize) (lane : Lane) (data : Word) :
    TableRow.Statement (.wrBdrm size lane data) :=
  (registerWord_masked 1#3 .bdrm size lane).trans
    (by decide : operationWord 1#3 0#2 (regOffset .bdrm 0#2) = 0x2000003C#32)

theorem TableRow.wrGcr (size : AccessSize) (lane : Lane) (data : Word) :
    TableRow.Statement (.wrGcr size lane data) :=
  (registerWord_masked 1#3 .gcr size lane).trans
    (by decide : operationWord 1#3 0#2 (regOffset .gcr 0#2) = 0x20000040#32)

theorem TableRow.wrUartpto (size : AccessSize) (lane : Lane) (data : Word) :
    TableRow.Statement (.wrUartpto size lane data) :=
  (registerWord_masked 1#3 .uartpto size lane).trans
    (by decide : operationWord 1#3 0#2 (regOffset .uartpto 0#2) = 0x20000044#32)

theorem TableRow.wrUartcto (size : AccessSize) (lane : Lane) (data : Word) :
    TableRow.Statement (.wrUartcto size lane data) :=
  (registerWord_masked 1#3 .uartcto size lane).trans
    (by decide : operationWord 1#3 0#2 (regOffset .uartcto 0#2) = 0x20000048#32)

theorem TableRow.wrDmatxe (size : AccessSize) (lane : Lane) (data : Word) :
    TableRow.Statement (.wrDmatxe size lane data) :=
  (registerWord_masked 1#3 .dmatxe size lane).trans
    (by decide : operationWord 1#3 0#2 (regOffset .dmatxe 0#2) = 0x2000004C#32)

theorem TableRow.wrDmarxe (size : AccessSize) (lane : Lane) (data : Word) :
    TableRow.Statement (.wrDmarxe size lane data) :=
  (registerWord_masked 1#3 .dmarxe size lane).trans
    (by decide : operationWord 1#3 0#2 (regOffset .dmarxe 0#2) = 0x20000050#32)

theorem TableRow.rdInvalid (size : AccessSize) (offset : Offset) : TableRow.Statement (.rdInvalid size offset) :=
  (invalidWord_masked 0#3 size offset).trans (by decide : operationWord 0#3 0#2 0#12 = 0x00000000#32)

theorem TableRow.wrInvalid (size : AccessSize) (offset : Offset) (data : Word) : TableRow.Statement (.wrInvalid size offset data) :=
  (invalidWord_masked 1#3 size offset).trans (by decide : operationWord 1#3 0#2 0#12 = 0x20000000#32)

theorem TableRow.gate : TableRow.Statement .gate := by
  unfold TableRow.Statement
  decide

theorem TableRow.rx (byte : Byte) : TableRow.Statement (.rx byte) :=
  (by decide : operationWord 3#3 0#2 0#12 &&& 0xFFFFFFFF#32 = 0x60000000#32)

theorem TableRow.rstEnter : TableRow.Statement .rstEnter := by
  unfold TableRow.Statement
  decide

theorem TableRow.rstHold : TableRow.Statement .rstHold := by
  unfold TableRow.Statement
  decide

theorem TableRow.rstExit : TableRow.Statement .rstExit := by
  unfold TableRow.Statement
  decide

theorem TableRow.postload : TableRow.Statement .postload := by
  unfold TableRow.Statement
  decide

end Sys2Proof.Laws
end

