-- ==== Sys2Proof/Tests/Slice0.lean ====
section
/-! SUPPORT. The model's own tests: ill-formed terms are refused, words written out from 30_encoding.md R81 decode to
their operations, a few single steps from 95_test_vectors.md, and for each statement with hypotheses a concrete state
and operands that meet them. -/

open Sys2Proof Sys2Proof.Machine

namespace Sys2Proof.Tests

/-- The register an outcome leaves, the value 0 where there is no next state. -/
def regAfter (r : Result) (q : Reg) : Word :=
  match r with
  | .next t => reg t q
  | _ => 0#32

/-- The trace an outcome leaves. -/
def traceAfter (r : Result) : List Event :=
  match r with
  | .next t => t.trace
  | _ => []

/-- The level an outcome leaves. -/
def irqAfter (r : Result) : Option Bool :=
  match r with
  | .next t => some t.irq
  | _ => none

/-- The answer an outcome leaves. -/
def answerAfter (r : Result) : Answer :=
  match r with
  | .next t => t.answer
  | _ => .nothing

/-- The reason an outcome refuses for. -/
def refusalOf (r : Result) : Option Refusal :=
  match r with
  | .refused e => some e
  | _ => none

/-- S0 of 95_test_vectors.md with an empty trace. -/
def s0 : State := { State.reset with trace := [] }

/-- A state with one register changed. -/
def with1 (q : Reg) (v : Word) : State := setReg s0 q v

/-- A state with LINIER and UARTSR changed. -/
def withLine (ier usr : Word) : State := setReg (setReg s0 .linier ier) .uartsr usr

/-- A state with one pending call. -/
def called (s : State) (w d : Word) : State := { s with calls := [⟨w, d, none⟩] }

/-- A state in a reset phase. -/
def inPhase (ph : ResetPhase) (s : State) : State := { s with phase := ph }

/-- The reset phase an outcome leaves. -/
def phaseOf (r : Result) : Option ResetPhase :=
  match r with
  | .next t => some t.phase
  | _ => none

/-! ## Well-formedness: an ill-formed term for each check -/

/-- A two-byte value in a one-byte write (R81, vector 13.4). -/
theorem test_write_data_above_size_is_ill_formed : Instr.wellFormed (.wrUartsr .one 0#2 0x102#32) = false := by decide

/-- A one-byte value of all ones is within its size. -/
theorem test_write_data_within_size_is_well_formed : Instr.wellFormed (.wrUartsr .one 0#2 0xFF#32) = true := by decide

/-- 0x050 to 0x053 is DMARXE, not invalid (R63, vector 7.7). -/
theorem test_invalid_read_of_a_register_is_ill_formed : Instr.wellFormed (.rdInvalid .one 0x053#12) = false := by decide

/-- The same for a write; its data fits. -/
theorem test_invalid_write_of_a_register_is_ill_formed : Instr.wellFormed (.wrInvalid .four 0x053#12 0x1#32) = false := by
  decide

/-- An invalid write with data above its size. -/
theorem test_invalid_write_data_above_size_is_ill_formed :
    Instr.wellFormed (.wrInvalid .three 0x054#12 0x01000000#32) = false := by decide

/-- The first invalid offset. -/
theorem test_first_invalid_offset_is_well_formed :
    Instr.wellFormed (.rdInvalid .one 0x054#12) = true ∧ Instr.wellFormed (.wrInvalid .four 0xFFF#12 0xFFFFFFFF#32) = true := by
  decide

/-! ## Decoding: W = K[31:29], 0[28:26], Z[25:24] = size - 1, 0[23:12], A[11:0] (R81), one word for each constructor -/

/-- Bus reads, K = 0: the size in Z, the offset 4 * index + lane in A (R81, R83, R86). -/
theorem test_decode_reads_a :
    decode 0x03000000#32 0x0#32 = .ok (.rdLincr1 .four 0#2) ∧
    decode 0x00000004#32 0x0#32 = .ok (.rdLinier .one 0#2) ∧
    decode 0x01000009#32 0x0#32 = .ok (.rdLinsr .two 1#2) ∧
    decode 0x0200000D#32 0x0#32 = .ok (.rdLinesr .three 1#2) ∧
    decode 0x03000012#32 0x0#32 = .ok (.rdUartcr .four 2#2) ∧
    decode 0x00000016#32 0x0#32 = .ok (.rdUartsr .one 2#2) ∧
    decode 0x0100001B#32 0x0#32 = .ok (.rdLintcsr .two 3#2) := by
  decide

/-- Bus reads, K = 0: the size in Z, the offset 4 * index + lane in A (R81, R83, R86). -/
theorem test_decode_reads_b :
    decode 0x0200001F#32 0x0#32 = .ok (.rdLinocr .three 3#2) ∧
    decode 0x03000020#32 0x0#32 = .ok (.rdLintocr .four 0#2) ∧
    decode 0x00000024#32 0x0#32 = .ok (.rdLinfbrr .one 0#2) ∧
    decode 0x01000029#32 0x0#32 = .ok (.rdLinibrr .two 1#2) ∧
    decode 0x0200002D#32 0x0#32 = .ok (.rdLincfr .three 1#2) ∧
    decode 0x03000032#32 0x0#32 = .ok (.rdLincr2 .four 2#2) ∧
    decode 0x00000036#32 0x0#32 = .ok (.rdBidr .one 2#2) := by
  decide

/-- Bus reads, K = 0: the size in Z, the offset 4 * index + lane in A (R81, R83, R86). -/
theorem test_decode_reads_c :
    decode 0x0100003B#32 0x0#32 = .ok (.rdBdrl .two 3#2) ∧
    decode 0x0200003F#32 0x0#32 = .ok (.rdBdrm .three 3#2) ∧
    decode 0x03000040#32 0x0#32 = .ok (.rdGcr .four 0#2) ∧
    decode 0x00000044#32 0x0#32 = .ok (.rdUartpto .one 0#2) ∧
    decode 0x01000049#32 0x0#32 = .ok (.rdUartcto .two 1#2) ∧
    decode 0x0200004D#32 0x0#32 = .ok (.rdDmatxe .three 1#2) ∧
    decode 0x03000052#32 0x0#32 = .ok (.rdDmarxe .four 2#2) := by
  decide

/-- Bus writes, K = 1, with data that fits the size (R81, R83, R86). -/
theorem test_decode_writes_a :
    decode 0x20000000#32 0x89#32 = .ok (.wrLincr1 .one 0#2 0x89#32) ∧
    decode 0x21000004#32 0xA1B2#32 = .ok (.wrLinier .two 0#2 0xA1B2#32) ∧
    decode 0x22000008#32 0xC0FFEE#32 = .ok (.wrLinsr .three 0#2 0xC0FFEE#32) ∧
    decode 0x2300000F#32 0xDEADBEEF#32 = .ok (.wrLinesr .four 3#2 0xDEADBEEF#32) ∧
    decode 0x20000013#32 0x89#32 = .ok (.wrUartcr .one 3#2 0x89#32) ∧
    decode 0x21000017#32 0xA1B2#32 = .ok (.wrUartsr .two 3#2 0xA1B2#32) ∧
    decode 0x22000019#32 0xC0FFEE#32 = .ok (.wrLintcsr .three 1#2 0xC0FFEE#32) := by
  decide

/-- Bus writes, K = 1, with data that fits the size (R81, R83, R86). -/
theorem test_decode_writes_b :
    decode 0x2300001D#32 0xDEADBEEF#32 = .ok (.wrLinocr .four 1#2 0xDEADBEEF#32) ∧
    decode 0x20000021#32 0x89#32 = .ok (.wrLintocr .one 1#2 0x89#32) ∧
    decode 0x21000026#32 0xA1B2#32 = .ok (.wrLinfbrr .two 2#2 0xA1B2#32) ∧
    decode 0x2200002A#32 0xC0FFEE#32 = .ok (.wrLinibrr .three 2#2 0xC0FFEE#32) ∧
    decode 0x2300002E#32 0xDEADBEEF#32 = .ok (.wrLincfr .four 2#2 0xDEADBEEF#32) ∧
    decode 0x20000030#32 0x89#32 = .ok (.wrLincr2 .one 0#2 0x89#32) ∧
    decode 0x21000034#32 0xA1B2#32 = .ok (.wrBidr .two 0#2 0xA1B2#32) := by
  decide

/-- Bus writes, K = 1, with data that fits the size (R81, R83, R86). -/
theorem test_decode_writes_c :
    decode 0x22000038#32 0xC0FFEE#32 = .ok (.wrBdrl .three 0#2 0xC0FFEE#32) ∧
    decode 0x2300003F#32 0xDEADBEEF#32 = .ok (.wrBdrm .four 3#2 0xDEADBEEF#32) ∧
    decode 0x20000043#32 0x89#32 = .ok (.wrGcr .one 3#2 0x89#32) ∧
    decode 0x21000047#32 0xA1B2#32 = .ok (.wrUartpto .two 3#2 0xA1B2#32) ∧
    decode 0x22000049#32 0xC0FFEE#32 = .ok (.wrUartcto .three 1#2 0xC0FFEE#32) ∧
    decode 0x2300004D#32 0xDEADBEEF#32 = .ok (.wrDmatxe .four 1#2 0xDEADBEEF#32) ∧
    decode 0x20000051#32 0x89#32 = .ok (.wrDmarxe .one 1#2 0x89#32) := by
  decide

/-- Offsets above the registers, and the kinds 2 to 7 (R85, vectors 13.2, 13.9, 13.11, 13.12). -/
theorem test_decode_invalid_and_control :
    decode 0x02000FFC#32 0x0#32 = .ok (.rdInvalid .three 0xFFC#12) ∧
    decode 0x23000054#32 0x1#32 = .ok (.wrInvalid .four 0x054#12 0x1#32) ∧
    decode 0x40000000#32 0x0#32 = .ok .gate ∧
    decode 0x60000000#32 0xFF#32 = .ok (.rx 0xFF#8) ∧
    decode 0x80000000#32 0x0#32 = .ok .rstEnter ∧
    decode 0xA0000000#32 0x0#32 = .ok .rstHold ∧
    decode 0xC0000000#32 0x0#32 = .ok .rstExit ∧
    decode 0xE0000000#32 0x0#32 = .ok .postload := by
  decide

/-- Where the registers end: 0x053 is DMARXE, 0x054 is invalid (R63). -/
theorem test_decode_at_the_last_register :
    decode 0x00000053#32 0x0#32 = .ok (.rdDmarxe .one 3#2) ∧
    decode 0x00000054#32 0x0#32 = .ok (.rdInvalid .one 0x054#12) ∧
    decode 0x20000053#32 0xFF#32 = .ok (.wrDmarxe .one 3#2 0xFF#32) ∧
    decode 0x20000054#32 0xFF#32 = .ok (.wrInvalid .one 0x054#12 0xFF#32) := by
  decide

/-- The refusals, vectors 13.4 to 13.8 and 13.10. -/
theorem test_decode_refusals :
    decode 0x20000014#32 0x102#32 = .error .dataAboveSize ∧
    decode 0x00001000#32 0x0#32 = .error .reservedField ∧
    decode 0x04000000#32 0x0#32 = .error .reservedField ∧
    decode 0x40000001#32 0x0#32 = .error .operandField ∧
    decode 0x60000000#32 0x100#32 = .error .deliveryAboveByte ∧
    decode 0x03000000#32 0x1#32 = .error .readWithData ∧
    decode 0x40000000#32 0x1#32 = .error .controlWithData := by
  decide

/-- The table's numbering: W in bits 31..0, D in bits 63..32; bits above the given count are 0. -/
theorem test_decode_table_word :
    decodeTableWord 64 0x0000FFFF21000016 = some (.wrUartsr .two 2#2 0xFFFF#32) ∧
    decodeTableWord 32 0x0000FFFF21000016 = some (.wrUartsr .two 2#2 0x0#32) ∧
    decodeTableWord 64 0x100000000003000000 = some (.rdLincr1 .four 0#2) ∧
    decodeTableWord 64 0x0000000103000000 = none := by
  decide

/-! ## One step each, from 95_test_vectors.md; S0 is the state after a complete reset -/

/-- Vector 1.1. -/
theorem test_wr_lincr1_masks_and_sets_init_flag :
    regAfter (exec (.wrLincr1 .four 0#2 0xFFFFFFFF#32) s0) .lincr1 = 0x0001DF27#32 ∧
    regAfter (exec (.wrLincr1 .four 0#2 0xFFFFFFFF#32) s0) .linsr = 0x00001040#32 := by decide

/-- Vector 1.12: the flag is never cleared by this path. -/
theorem test_wr_lincr1_leaves_init_flag_set :
    regAfter (exec (.wrLincr1 .four 0#2 0x0#32) (with1 .linsr 0x1040#32)) .linsr = 0x1040#32 := by decide

/-- Vector 1.11: bit 7 is forced in storage and result. -/
theorem test_rd_lincr1_forces_bit_7 :
    answerAfter (exec (.rdLincr1 .four 0#2) (with1 .lincr1 0x0001DF27#32)) = .value 0x0001DFA7#32 0x0001DFA7#32 ∧
    regAfter (exec (.rdLincr1 .four 0#2) (with1 .lincr1 0x0001DF27#32)) .lincr1 = 0x0001DFA7#32 := by decide

/-- Vector 8.2: no byte lane is selected. -/
theorem test_rd_lincr1_second_byte_offset :
    answerAfter (exec (.rdLincr1 .one 1#2) s0) = .value 0x82#32 0x82#32 := by decide

/-- Vector 2.1. -/
theorem test_wr_linier_masks_and_asserts :
    regAfter (exec (.wrLinier .four 0#2 0xABCD0001#32) s0) .linier = 0x1#32 ∧
    traceAfter (exec (.wrLinier .four 0#2 0xABCD0001#32) s0) = [.irqLevel true] := by decide

/-- Vectors 8.8 and 2.4: a byte write at offset 0x06 reaches LINIER; no other bit enables anything. -/
theorem test_wr_linier_sub_word_and_other_enables :
    irqAfter (exec (.wrLinier .one 2#2 0x01#32) s0) = some true ∧
    irqAfter (exec (.wrLinier .four 0#2 0xFFFA#32) s0) = some false := by decide

/-- Vectors 3.1, 3.2, 3.3 and 3.5. -/
theorem test_wr_uartcr_in_init_mode :
    regAfter (exec (.wrUartcr .four 0#2 0xFFFFFFFF#32) s0) .uartcr = 0x0#32 ∧
    regAfter (exec (.wrUartcr .four 0#2 0x32#32) (with1 .lincr1 0x1#32)) .uartcr = 0x0#32 ∧
    regAfter (exec (.wrUartcr .four 0#2 0x33#32) (with1 .lincr1 0x1#32)) .uartcr = 0x33#32 ∧
    regAfter (exec (.wrUartcr .four 0#2 0xF0000000#32) (setReg (with1 .lincr1 0x1#32) .uartcr 0x1#32)) .uartcr =
      0xF0000001#32 := by decide

/-- Vectors 3.6, 3.7 and 3.9. -/
theorem test_wr_uartcr_after_init_mode :
    regAfter (exec (.wrUartcr .four 0#2 0xFFFFFFFF#32) (with1 .uartcr 0x33#32)) .uartcr = 0x0070FC33#32 ∧
    regAfter (exec (.wrUartcr .four 0#2 0x0#32) (with1 .uartcr 0x0070FC33#32)) .uartcr = 0x0070FC33#32 ∧
    regAfter (exec (.wrUartcr .four 0#2 0xE#32) (with1 .uartcr 0x33#32)) .uartcr = 0x33#32 := by decide

/-- Vectors 4.1, 4.2 and 4.5 with LINIER = 5. -/
theorem test_wr_uartsr_acknowledges_and_notifies :
    traceAfter (exec (.wrUartsr .four 0#2 0x204#32) (withLine 0x5#32 0x206#32)) = [.resume, .irqLevel true] ∧
    regAfter (exec (.wrUartsr .four 0#2 0x4#32) (withLine 0x5#32 0x206#32)) .uartsr = 0x202#32 ∧
    traceAfter (exec (.wrUartsr .four 0#2 0x2#32) (withLine 0x5#32 0x206#32)) = [.irqLevel true] := by decide

/-- Vectors 4.9, 4.6 and 8.10. -/
theorem test_wr_uartsr_clears_low_half_only :
    regAfter (exec (.wrUartsr .four 0#2 0xFFFFFFFF#32) (with1 .uartsr 0xFFFF0206#32)) .uartsr = 0xFFFF0000#32 ∧
    regAfter (exec (.wrUartsr .four 0#2 0xFFFF0000#32) (with1 .uartsr 0x206#32)) .uartsr = 0x206#32 ∧
    traceAfter (exec (.wrUartsr .two 2#2 0x0204#32) (with1 .uartsr 0x206#32)) = [.resume, .irqLevel false] := by decide

/-- Vector 5.1. -/
theorem test_wr_bdrl_pushes_the_low_byte :
    traceAfter (exec (.wrBdrl .four 0#2 0x12345641#32) (withLine 0x1#32 0x0#32)) = [.txByte 0x41#8, .irqLevel true] ∧
    regAfter (exec (.wrBdrl .four 0#2 0x12345641#32) (withLine 0x1#32 0x0#32)) .bdrl = 0x12345641#32 ∧
    regAfter (exec (.wrBdrl .four 0#2 0x12345641#32) (withLine 0x1#32 0x0#32)) .uartsr = 0x2#32 := by decide

/-- Vector 8.9. -/
theorem test_wr_bdrl_half_word :
    traceAfter (exec (.wrBdrl .two 0#2 0x4142#32) s0) = [.txByte 0x42#8, .irqLevel false] := by decide

/-- Vectors 6.1 to 6.16 (writes): the verbatim store and the diagnostic at the register's offset. -/
theorem test_inert_writes_store_verbatim : ∀ p ∈ inertWrites,
    regAfter (exec (p.2.2 .four 0#2 0xDEADBEEF#32) s0) p.1 = 0xDEADBEEF#32 ∧
    traceAfter (exec (p.2.2 .four 0#2 0xDEADBEEF#32) s0) =
      [.diag .unimplementedRegister (BitVec.ofNat 12 p.2.1), .irqLevel false] := by decide

/-- Vectors of §8 (reads from S0): nothing is emitted and S0's value comes back. -/
theorem test_default_reads_return_the_stored_value : ∀ p ∈ storedReads,
    answerAfter (exec (p.2.2 .four 0#2) s0) = .value (reg s0 p.1) (reg s0 p.1) ∧
    traceAfter (exec (p.2.2 .four 0#2) s0) = [] := by decide

/-- Vectors 6.11 and 10.3: the low byte of BDRM. -/
theorem test_rd_bdrm_returns_the_low_byte :
    answerAfter (exec (.rdBdrm .four 0#2) (with1 .bdrm 0xDEADBEEF#32)) = .value 0xEF#32 0xEF#32 := by decide

/-- Vector 8.5: a half-word read of LINTOCR at offset 0x22. -/
theorem test_rd_lintocr_half_word :
    answerAfter (exec (.rdLintocr .two 2#2) (with1 .lintocr 0xAAAA0E2C#32)) = .value 0xAAAA0E2C#32 0x0E2C#32 := by decide

/-- Vector 7.3. -/
theorem test_rd_invalid_reports_and_returns_zero :
    answerAfter (exec (.rdInvalid .four 0xFFC#12) s0) = .value 0#32 0#32 ∧
    traceAfter (exec (.rdInvalid .four 0xFFC#12) s0) = [.diag .invalidRegister 0xFFC#12] := by decide

/-- Vector 7.5: the level is driven again, unchanged. -/
theorem test_wr_invalid_reports_and_drives_the_line :
    traceAfter (exec (.wrInvalid .four 0x100#12 0x0#32) { with1 .linier 0x1#32 with irq := true }) =
      [.diag .invalidRegister 0x100#12, .irqLevel true] := by decide

/-- Vectors 9.1 to 9.7. -/
theorem test_gate_answers :
    answerAfter (exec .gate (with1 .uartsr 0x2#32)) = .accept true ∧
    answerAfter (exec .gate (with1 .uartsr 0x4#32)) = .accept false ∧
    answerAfter (exec .gate (with1 .uartsr 0x200#32)) = .accept false ∧
    answerAfter (exec .gate (with1 .uartsr 0xFFFFFDFB#32)) = .accept true ∧
    answerAfter (exec .gate (with1 .uartsr 0xFFFFFFFF#32)) = .accept false := by decide

/-- Vector 10.3. -/
theorem test_rx_replaces_the_low_byte :
    regAfter (exec (.rx 0x7F#8) (with1 .bdrm 0xABCD1234#32)) .bdrm = 0xABCD127F#32 ∧
    regAfter (exec (.rx 0x7F#8) (with1 .bdrm 0xABCD1234#32)) .uartsr = 0x206#32 := by decide

/-- Vectors 10.2 and 10.6: a delivery asserts the line only through the receive enable. -/
theorem test_rx_drives_the_line :
    irqAfter (exec (.rx 0x41#8) (with1 .linier 0x4#32)) = some true ∧
    irqAfter (exec (.rx 0x10#8) (withLine 0x1#32 0x0#32)) = some false := by decide

/-- The state of vector 12.1: LINIER = 1, BDRL = 0x41, UARTCR = 0x33, irq 1. -/
def busy : State := { setReg (setReg (with1 .linier 0x1#32) .bdrl 0x41#32) .uartcr 0x33#32 with irq := true }

/-- Vector 12.1. -/
theorem test_rst_enter_gives_power_on_values_and_keeps_the_line :
    (∀ p ∈ powerOnTable, regAfter (exec .rstEnter busy) p.1 = p.2) ∧
    irqAfter (exec .rstEnter busy) = some true ∧ traceAfter (exec .rstEnter busy) = [] := by decide

/-- Vector 12.2. -/
theorem test_rst_hold_sets_transmit_buffer_empty :
    regAfter (exec .rstHold { busy with regs := fileOf powerOn }) .uartsr = 0x2#32 ∧
    irqAfter (exec .rstHold { busy with regs := fileOf powerOn }) = some true := by decide

/-- Vector 12.3. -/
theorem test_rst_exit_drives_the_line_then_notifies :
    traceAfter (exec .rstExit { s0 with irq := true }) = [.irqLevel false, .resume] := by decide

/-- Vector 12.4. -/
theorem test_postload_takes_the_record :
    irqAfter (exec .postload { s0 with record := some ⟨0, fileWords (setReg (setReg { s0 with regs := fileOf fun _ => 0#32 }
      .linier 1#32) .uartsr 2#32).regs⟩ }) = some true ∧
    regAfter (exec .postload { s0 with record := some ⟨0, List.replicate 21 0xFFFFFFFF#32⟩ }) .lincr1 =
      0xFFFFFFFF#32 := by decide

/-- Vector 12.7: a record of 20 words. -/
theorem test_postload_refuses_a_short_record :
    refusalOf (exec .postload { s0 with record := some ⟨0, List.replicate 20 0#32⟩ }) = some .recordFormat := by decide

/-- Vectors 11.1 to 11.8: no enable, then the transmit enable alone; UARTSR 0, TBE, RBF, both. -/
theorem test_line_enables_off_or_transmit :
    [(0x0#32, 0x0#32), (0x0#32, 0x2#32), (0x0#32, 0x4#32), (0x0#32, 0x6#32), (0x1#32, 0x0#32), (0x1#32, 0x2#32), (0x1#32, 0x4#32), (0x1#32, 0x6#32)].map
        (fun p => (updateIRQ (withLine p.1 p.2)).irq) =
      [false, false, false, false, false, true, false, true] := by decide

/-- Vectors 11.9 to 11.16: the receive enable alone, then both enables. -/
theorem test_line_receive_enabled :
    [(0x4#32, 0x0#32), (0x4#32, 0x2#32), (0x4#32, 0x4#32), (0x4#32, 0x6#32), (0x5#32, 0x0#32), (0x5#32, 0x2#32), (0x5#32, 0x4#32), (0x5#32, 0x6#32)].map
        (fun p => (updateIRQ (withLine p.1 p.2)).irq) =
      [false, false, true, true, false, true, true, true] := by decide

/-- Vectors 11.17 to 11.20: no other bit is a source. -/
theorem test_line_corner_rows :
    [(0x4#32, 0x200#32), (0xFFFA#32, 0xFFFF#32), (0xFFFF0000#32, 0xFFFF#32), (0x5#32, 0xFFFFFFF9#32)].map
        (fun p => (updateIRQ (withLine p.1 p.2)).irq) =
      [false, false, false, false] := by decide

/-- Part L2's S0 table (R234). -/
theorem test_reset_registers :
    (∀ p ∈ powerOnTable, p.1 ≠ .uartsr → reg State.reset p.1 = p.2) ∧ reg State.reset .uartsr = 0x2#32 ∧
    State.reset.irq = false ∧ State.reset.trace = [.irqLevel false, .resume] := by decide

/-- A step takes the pending call: L1.3, step 4 (W/D 23000004/1). -/
theorem test_step_runs_the_call :
    irqAfter (step (called s0 0x23000004#32 0x1#32)) = some true ∧
    (match step (called s0 0x23000004#32 0x1#32) with
     | .next t => t.calls
     | _ => [⟨0#32, 0#32, none⟩]) = [] := by decide

/-- A step refuses: a reserved pair (13.5), a delivery with the gate closed (R175), a misaligned access the bus never
presents (R66). -/
theorem test_step_refusals :
    refusalOf (step (called s0 0x00001000#32 0x0#32)) = some (.reservedEncoding .reservedField) ∧
    refusalOf (step (called (with1 .uartsr 0x4#32) 0x60000000#32 0x41#32)) = some .deliveryWhileGateClosed ∧
    refusalOf (step (called { s0 with cfg := { defaultParams with admitsUnaligned := false } } 0x03000001#32 0x0#32)) =
      some .unalignedNotPresented := by decide

/-- The order of a reset (R230): hold and exit outside a reset, a gate query after enter and a second hold have no step;
the three phases in order do. -/
theorem test_step_keeps_the_reset_order :
    refusalOf (step (called s0 0xA0000000#32 0#32)) = some .resetOrderBroken ∧
    refusalOf (step (called s0 0xC0000000#32 0#32)) = some .resetOrderBroken ∧
    refusalOf (step (called (inPhase .entered s0) 0x40000000#32 0#32)) = some .resetOrderBroken ∧
    refusalOf (step (called (inPhase .held s0) 0xA0000000#32 0#32)) = some .resetOrderBroken ∧
    phaseOf (step (called s0 0x80000000#32 0#32)) = some .entered ∧
    phaseOf (step (called (inPhase .entered s0) 0xA0000000#32 0#32)) = some .held ∧
    phaseOf (step (called (inPhase .held s0) 0xC0000000#32 0#32)) = some .running := by decide

/-- withFetchWord: the very next step runs the operation of the given bits. -/
theorem test_with_fetch_word :
    step (State.reset.withFetchWord 64 0x0000004123000038) =
      exec (.wrBdrl .four 0#2 0x41#32)
        { State.reset with record := some (saveSnapshot State.reset) } ∧
    step (State.reset.withFetchWord 64 0xE0000000) =
      exec .postload { State.reset with record := some (saveSnapshot State.reset) } ∧
    step (State.reset.withFetchWord 64 0xA0000000) =
      exec .rstHold { State.reset with record := some (saveSnapshot State.reset), phase := .held } ∧
    step (State.reset.withFetchWord 64 0xC0000000) =
      exec .rstExit { State.reset with record := some (saveSnapshot State.reset) } := ⟨rfl, rfl, rfl, rfl⟩

/-- The bus's window and byte order (R60, R67). -/
theorem test_bus_routes_and_orders_bytes :
    route { defaultParams with base := 0x1000 } 0x0FFF = none ∧
    route { defaultParams with base := 0x1000 } 0x1FFF = some 0xFFF#12 ∧
    route { defaultParams with base := 0x1000 } 0x2000 = none ∧
    busBytes defaultParams .three 0x000E2C#32 = [0x2C#8, 0x0E#8, 0x00#8] ∧
    busBytes { defaultParams with byteOrder := .big } .three 0x000E2C#32 = [0x00#8, 0x0E#8, 0x2C#8] := by decide

/-! ## Witnesses: each statement's hypotheses are met together by something concrete -/

/-- Other parameters that meet R10: the statements do not hold for one layout only. -/
def otherParams : Params :=
  { cr1Init := 0x00000002#32, lsrInit := 0x80000000#32, ucrUart := 0x00400000#32, usrRbf := 0x00008000#32,
    usrRmb := 0x00000001#32, usrTbe := 0x00000100#32, ierTxie := 0x00008000#32, ierRxie := 0x00000001#32,
    base := 0x40000000, byteOrder := .big, admitsUnaligned := false, snapshotVersion := 3 }

/-- The constraints of R10 are met by the defaults and by others. -/
theorem witness_params_ok : defaultParams.ok = true ∧ otherParams.ok = true ∧ s0.cfg.ok = true := by decide

theorem witness_EncodedOperationDecodesToItself :
    Instr.wellFormed (.wrUartsr .two 3#2 0xFFFF#32) = true ∧ Instr.wellFormed (.rdInvalid .one 0x054#12) = true ∧
    Instr.wellFormed (.wrInvalid .four 0xFFF#12 0xFFFFFFFF#32) = true ∧ Instr.wellFormed (.rx 0xFF#8) = true ∧
    Instr.wellFormed .postload = true := by decide

theorem witness_AcceptedPairIsTheEncodingOfItsOperation :
    decode 0x20000053#32 0xFF#32 = .ok (.wrDmarxe .one 3#2 0xFF#32) ∧ decode 0x40000000#32 0#32 = .ok .gate := by decide

/-- Both sides of the equivalence occur. -/
theorem witness_DecoderRefusesExactlyTheReservedPairs :
    decode 0x20000014#32 0x100#32 = .error .dataAboveSize ∧ decode 0x20000014#32 0xFF#32 = .ok (.wrUartsr .one 0#2 0xFF#32) := by
  decide

/-- One for each of the four forms, at the boundary between registers and invalid offsets. -/
theorem witness_DecodedAccessHasTheOffsetSizeAndRegisterOfItsWord :
    (decode 0x00000053#32 0#32 = .ok (.rdDmarxe .one 3#2) ∧ busAccess (.rdDmarxe .one 3#2) = some (0x053#12, .one)) ∧
    (decode 0x00000054#32 0#32 = .ok (.rdInvalid .one 0x054#12) ∧
      busAccess (.rdInvalid .one 0x054#12) = some (0x054#12, .one)) ∧
    (decode 0x20000053#32 1#32 = .ok (.wrDmarxe .one 3#2 1#32) ∧
      busAccess (.wrDmarxe .one 3#2 1#32) = some (0x053#12, .one)) ∧
    (decode 0x20000054#32 1#32 = .ok (.wrInvalid .one 0x054#12 1#32) ∧
      busAccess (.wrInvalid .one 0x054#12 1#32) = some (0x054#12, .one)) := by decide

theorem witness_StepRunsTheDecodedCall :
    (called s0 0x60000000#32 0x41#32).calls = [⟨0x60000000#32, 0x41#32, none⟩] ∧
    decode 0x60000000#32 0x41#32 = .ok (.rx 0x41#8) ∧
    phaseAfter (called s0 0x60000000#32 0x41#32).phase (.rx 0x41#8) = some .running ∧
    notPermitted (.rx 0x41#8) (called s0 0x60000000#32 0x41#32) = none := by
  decide

/-- The parts of each check occur, and their negations: a closed gate, an offset that is no multiple of the size, bytes that
straddle, and calls in and out of the order of a reset. -/
theorem witness_StepTurnsAwayExactlyTheCallsNoCollaboratorMakes :
    notPermitted (.rx 0#8) (with1 .uartsr 0x200#32) ≠ none ∧
    notPermitted (.rdLinier .two 3#2) { s0 with cfg := otherParams } ≠ none ∧
    notPermitted (.rdLinier .three 1#2) { s0 with cfg := otherParams } ≠ none ∧
    notPermitted (.rdLinier .two 2#2) { s0 with cfg := otherParams } = none ∧
    notPermitted (.rdLinier .two 3#2) s0 = none ∧
    phaseAfter .running .rstHold = none ∧ phaseAfter .entered .gate = none ∧ phaseAfter .held .rstHold = none ∧
    phaseAfter .running .rstEnter = some .entered ∧ phaseAfter .entered .rstHold = some .held := by decide

/-- The step's own clauses: a 2-byte read of LINIER at its last offset where the bus presents none and where it does, a
delivery with the gate closed, and reset hold outside a reset. -/
theorem witness_StepTurnsAwayExactlyTheCallsNoCollaboratorMakes_step :
    decode 0x01000007#32 0#32 = .ok (.rdLinier .two 3#2) ∧ phaseAfter s0.phase (.rdLinier .two 3#2) ≠ none ∧
    refusalOf (step (called { s0 with cfg := otherParams } 0x01000007#32 0#32)) = some .unalignedNotPresented ∧
    phaseOf (step (called s0 0x01000007#32 0#32)) = some .running ∧
    refusalOf (step (called (with1 .uartsr 0x200#32) 0x60000000#32 0#32)) = some .deliveryWhileGateClosed ∧
    refusalOf (step (called s0 0xA0000000#32 0#32)) = some .resetOrderBroken := by decide

theorem witness_DeliveryWhileGateIsClosedHasNoStep :
    decode 0x60000000#32 0x41#32 = .ok (.rx 0x41#8) ∧
    GateClosed (called (with1 .uartsr 0x4#32) 0x60000000#32 0x41#32) ∧
    GateClosed (called (with1 .uartsr 0x200#32) 0x60000000#32 0x41#32) ∧
    ¬ GateClosed (called s0 0x60000000#32 0x41#32) ∧ (called s0 0x60000000#32 0x41#32).phase = .running := by decide

theorem witness_ReservedPairHasNoStep :
    (called s0 0x04000000#32 0#32).calls = [⟨0x04000000#32, 0#32, none⟩] ∧
    decode 0x04000000#32 0#32 = .error .reservedField ∧ s0.calls = [] := by decide

theorem witness_EveryOperationButPostloadCompletes :
    (Instr.gate ≠ .postload ∧ ∃ t, exec .gate s0 = .next t) ∧
    (∃ t, exec .postload { s0 with record := some (saveSnapshot s0) } = .next t) :=
  ⟨⟨by decide, _, rfl⟩, _, rfl⟩

/-- Both cases of the flag: INIT written 1 and 0. -/
theorem witness_WriteControl1StoresMaskedValueAndSetsInitFlag :
    BitIn s0.cfg.cr1Init (regAfter (exec (.wrLincr1 .four 0#2 0xFFFFFFFF#32) s0) .lincr1) ∧
    ¬ BitIn s0.cfg.cr1Init (regAfter (exec (.wrLincr1 .four 0#2 0xFFFE20D8#32) s0) .lincr1) := by decide

/-- The four mode cases. -/
theorem witness_WriteUartControlIsModeGatedAndAccumulates :
    (InitMode (with1 .lincr1 1#32) ∧ BitIn s0.cfg.ucrUart (lowPart .one 0x33#32)) ∧
    (InitMode (with1 .lincr1 1#32) ∧ ¬ UartModeOn (with1 .lincr1 1#32) ∧ ¬ BitIn s0.cfg.ucrUart (lowPart .one 0x32#32)) ∧
    (¬ InitMode (with1 .uartcr 1#32) ∧ UartModeOn (with1 .uartcr 1#32)) ∧
    (¬ InitMode s0 ∧ ¬ UartModeOn s0) := by decide

theorem witness_InvalidWriteReportsAndChangesNoRegister :
    LineCurrent s0 ∧ LineCurrent { with1 .linier 1#32 with irq := true } := by decide

theorem witness_InertWriteStoresVerbatimAndReports :
    ∃ p ∈ inertWrites, p.1 = .dmarxe :=
  ⟨(.dmarxe, 0x050, .wrDmarxe), by simp [inertWrites], rfl⟩

theorem witness_DefaultReadReturnsTheStoredValue :
    ∃ p ∈ storedReads, p.1 = .uartsr :=
  ⟨(.uartsr, 0x014, .rdUartsr), by simp [storedReads], rfl⟩

theorem witness_ReadControl1ForcesBit7InStoreAndResult :
    ∃ t, exec (.wrLinsr .four 0#2 0#32) s0 = .next t ∧ BitIn 0x00000080#32 (reg s0 .lincr1) ∧
      (∀ size lane data, Instr.wrLinsr .four 0#2 0#32 ≠ .wrLincr1 size lane data) ∧
      Instr.wrLinsr .four 0#2 0#32 ≠ .rstEnter ∧ Instr.wrLinsr .four 0#2 0#32 ≠ .postload :=
  ⟨_, rfl, by decide, by simp, by simp, by simp⟩

/-- An operation that keeps the low byte of BDRM, and reset enter from a state that holds one. -/
theorem witness_ReadReceiveBufferReturnsLowByteAndRearmsNothing :
    (∃ t, exec (.wrBdrl .one 0#2 0x41#32) (with1 .bdrm 0x17F#32) = .next t ∧
      (∀ b, Instr.wrBdrl .one 0#2 0x41#32 ≠ .rx b) ∧
      (∀ size lane data, Instr.wrBdrl .one 0#2 0x41#32 ≠ .wrBdrm size lane data) ∧
      Instr.wrBdrl .one 0#2 0x41#32 ≠ .postload) ∧
    (∃ t, exec .rstEnter (with1 .bdrm 0x17F#32) = .next t ∧ reg t .bdrm = 0#32) :=
  ⟨⟨_, rfl, by simp, by simp, by simp⟩, _, rfl, by decide⟩

/-- Two offsets of the last register, of the first invalid slot, and of the last slot. -/
theorem witness_SubWordReadsDeliverLowBitsOfTheWholeRegister :
    (0x050#12).toNat / 4 = (0x053#12).toNat / 4 ∧ (0x054#12).toNat / 4 = (0x057#12).toNat / 4 ∧
    (0xFFC#12).toNat / 4 = (0xFFF#12).toNat / 4 := by decide

/-- Offsets as above; data that differ above the size only. -/
theorem witness_SubWordWritesActOnTheLowBitsOfTheSelectedRegister :
    (0x014#12).toNat / 4 = (0x017#12).toNat / 4 ∧ (0x054#12).toNat / 4 = (0x057#12).toNat / 4 ∧
    (0xAB000002#32).toNat % 2 ^ (8 * AccessSize.one.bytes) = (0x00000002#32).toNat % 2 ^ (8 * AccessSize.one.bytes) := by
  decide

theorem witness_RepeatedWriteChangesNoRegisterAndOnlyBdrlPushesAgain :
    s0.cfg.ok = true ∧ (0x038#12).toNat / 4 = 14 ∧ (0x03B#12).toNat / 4 = 14 ∧ (0x03C#12).toNat / 4 ≠ 14 := by decide

/-- The last clause: a receive flag that exists. -/
theorem witness_DeliveryStoresTheByteAndSetsBothReceiveFlags : s0.cfg.usrRbf ≠ 0#32 := by decide

/-- The four states of the flow control, under parameters that meet R10. -/
theorem witness_ReceiveFlowControlFollowsItsTable :
    s0.cfg.ok = true ∧ flowState s0 = .opened ∧ flowState (with1 .uartsr 0x206#32) = .full ∧
    flowState (with1 .uartsr 0x6#32) = .halfB ∧ flowState (with1 .uartsr 0x200#32) = .halfM := by decide

/-- The three clauses: reset exit, a clearing UARTSR write, another operation. -/
theorem witness_OnlyUartStatusWritesAndResetExitNotify :
    s0.cfg.ok = true ∧ (∃ t, exec .rstExit s0 = .next t) ∧
    (∃ t, exec (.wrUartsr .two 0#2 0x204#32) (with1 .uartsr 0x206#32) = .next t) ∧
    (∃ t, exec .gate s0 = .next t ∧ Instr.gate ≠ .rstExit ∧ ∀ size lane data, Instr.gate ≠ .wrUartsr size lane data) :=
  ⟨by decide, ⟨_, rfl⟩, ⟨_, rfl⟩, _, rfl, by simp, by simp⟩

theorem witness_OnlyTransmitBufferWritesPushBytes :
    (∃ t, exec (.wrBdrl .one 0#2 0x41#32) s0 = .next t) ∧
    (∃ t, exec (.rx 0x41#8) s0 = .next t ∧ ∀ size lane data, Instr.rx 0x41#8 ≠ .wrBdrl size lane data) :=
  ⟨⟨_, rfl⟩, _, rfl, by simp⟩

/-- Two different states that agree on the four bits. -/
theorem witness_UpdateIrqDrivesTheOrOfTheTwoSources :
    s0.cfg = (withLine 0xFFFA#32 0x202#32).cfg ∧
    (BitIn s0.cfg.ierRxie (reg s0 .linier) ↔ BitIn s0.cfg.ierRxie (reg (withLine 0xFFFA#32 0x202#32) .linier)) ∧
    (BitIn s0.cfg.ierTxie (reg s0 .linier) ↔ BitIn s0.cfg.ierTxie (reg (withLine 0xFFFA#32 0x202#32) .linier)) ∧
    (BitIn s0.cfg.usrRbf (reg s0 .uartsr) ↔ BitIn s0.cfg.usrRbf (reg (withLine 0xFFFA#32 0x202#32) .uartsr)) ∧
    (BitIn s0.cfg.usrTbe (reg s0 .uartsr) ↔ BitIn s0.cfg.usrTbe (reg (withLine 0xFFFA#32 0x202#32) .uartsr)) := by decide

/-- Both clauses. -/
theorem witness_LineIsRedrivenExactlyAtTheListedPoints :
    (∃ t, exec (.rx 0x41#8) s0 = .next t ∧ recomputesLine (.rx 0x41#8) = true) ∧
    (∃ t, exec .rstHold s0 = .next t ∧ recomputesLine .rstHold = false) :=
  ⟨⟨_, rfl, rfl⟩, _, rfl, rfl⟩

theorem witness_LineStaysCurrentOutsideTheResetPhases :
    Instr.rx 0x41#8 ≠ .rstEnter ∧ Instr.rx 0x41#8 ≠ .rstHold ∧ LineCurrent (with1 .linier 4#32) ∧
    ∃ t, exec (.rx 0x41#8) (with1 .linier 4#32) = .next t :=
  ⟨by decide, by decide, by decide, _, rfl⟩

/-- One step in each phase. -/
theorem witness_LineIsCurrentBetweenOperationsOfADisciplinedRun :
    (PhaseSafe (called s0 0x80000000#32 0#32) ∧ ∃ t, step (called s0 0x80000000#32 0#32) = .next t) ∧
    (PhaseSafe (called (inPhase .entered { s0 with regs := fileOf powerOn }) 0xA0000000#32 0#32) ∧
      ∃ t, step (called (inPhase .entered { s0 with regs := fileOf powerOn }) 0xA0000000#32 0#32) = .next t) ∧
    (PhaseSafe (called (inPhase .held { s0 with irq := true }) 0xC0000000#32 0#32) ∧
      ∃ t, step (called (inPhase .held { s0 with irq := true }) 0xC0000000#32 0#32) = .next t) :=
  ⟨⟨by show LineCurrent _; decide, _, rfl⟩, ⟨by show ∀ p ∈ powerOnTable, _; decide, _, rfl⟩,
   ⟨by show ∀ p ∈ powerOnTable, _; decide, _, rfl⟩⟩

theorem witness_ResetAndPostloadMakeTheLineCurrent :
    ∃ t, exec .postload { s0 with record := some (saveSnapshot (withLine 1#32 2#32)) } = .next t :=
  ⟨_, rfl⟩

/-- Both clauses, with a line that is asserted before. -/
theorem witness_AcknowledgingOrDisablingDeassertsTheLine :
    s0.cfg.ok = true ∧ BitIn s0.cfg.usrRbf (lowPart .one 0x06#32) ∧ BitIn s0.cfg.usrTbe (lowPart .one 0x06#32) ∧
    ¬ BitIn s0.cfg.ierRxie (lowPart .two 0xFFFA#32) ∧ ¬ BitIn s0.cfg.ierTxie (lowPart .two 0xFFFA#32) ∧
    LineAsserted (withLine 0x5#32 0x6#32) := by decide

theorem witness_UartControlNeverLosesASetBit :
    ∃ t, exec (.wrUartcr .four 0#2 0#32) (with1 .uartcr 0x33#32) = .next t ∧
      Instr.wrUartcr .four 0#2 0#32 ≠ .rstEnter ∧ Instr.wrUartcr .four 0#2 0#32 ≠ .postload :=
  ⟨_, rfl, by simp, by simp⟩

/-- The flag falls in each of the three ways (vector 6.17 for the write). -/
theorem witness_InitStateFlagIsStickyAgainstControl1 :
    BitIn s0.cfg.lsrInit (reg (with1 .linsr 0x1040#32) .linsr) ∧
    (∃ t, exec (.wrLinsr .four 0#2 0#32) (with1 .linsr 0x1040#32) = .next t ∧ ¬ BitIn s0.cfg.lsrInit (reg t .linsr)) ∧
    (∃ t, exec .rstEnter (with1 .linsr 0x1040#32) = .next t ∧ ¬ BitIn s0.cfg.lsrInit (reg t .linsr)) ∧
    (∃ t, exec .postload { with1 .linsr 0x1040#32 with record := some (saveSnapshot s0) } = .next t ∧
      ¬ BitIn s0.cfg.lsrInit (reg t .linsr)) :=
  ⟨by decide, ⟨_, rfl, by decide⟩, ⟨_, rfl, by decide⟩, _, rfl, by decide⟩

/-- Each clause: an operation other than the LINCR1 write, that write, UART mode kept, set, and entered; for the
replaced registers an operation of each kind, a post-load and the two reads among them. -/
theorem witness_ModesAreEnteredAndLeftOnlyAsDescribed :
    s0.cfg.ok = true ∧
    (∃ t, exec .gate s0 = .next t ∧ (∀ size lane data, Instr.gate ≠ .wrLincr1 size lane data) ∧
      (∀ size lane data, Instr.gate ≠ .wrUartcr size lane data) ∧ Instr.gate ≠ .rstEnter ∧ Instr.gate ≠ .postload) ∧
    (∃ t, exec (.wrLincr1 .four 0#2 1#32) s0 = .next t ∧ InitMode t) ∧
    (∃ t, exec (.rx 0#8) (with1 .uartcr 1#32) = .next t ∧ UartModeOn (with1 .uartcr 1#32)) ∧
    (∃ t, exec (.wrUartcr .four 0#2 1#32) (with1 .lincr1 1#32) = .next t ∧ InitMode (with1 .lincr1 1#32) ∧
      BitIn s0.cfg.ucrUart (lowPart .four 1#32) ∧ ¬ UartModeOn (with1 .lincr1 1#32) ∧ UartModeOn t) ∧
    (∃ t, exec .postload { s0 with record := some (saveSnapshot s0) } = .next t ∧
      ∀ size lane data, Instr.postload ≠ .wrUartcr size lane data) ∧
    (∃ t, exec (.rdLincr1 .one 0#2) s0 = .next t) ∧ (∃ t, exec (.rdUartcr .one 0#2) s0 = .next t) ∧
    (∃ t, exec .rstEnter s0 = .next t) :=
  ⟨by decide, ⟨_, rfl, by simp, by simp, by simp, by simp⟩, ⟨_, rfl, by decide⟩, ⟨_, rfl, by decide⟩,
   ⟨_, rfl, by decide, by decide, by decide, by decide⟩, ⟨_, rfl, by simp⟩, ⟨_, rfl⟩, ⟨_, rfl⟩, _, rfl⟩

/-- Each flag rises and falls. -/
theorem witness_StatusFlagsAreWrittenOnlyAsListed :
    s0.cfg.ok = true ∧
    (∃ t, exec (.rx 0#8) s0 = .next t ∧ ¬ BitIn s0.cfg.usrRbf (reg s0 .uartsr) ∧ BitIn s0.cfg.usrRbf (reg t .uartsr) ∧
      ¬ BitIn s0.cfg.usrRmb (reg s0 .uartsr) ∧ BitIn s0.cfg.usrRmb (reg t .uartsr)) ∧
    (∃ t, exec .rstHold (with1 .uartsr 0#32) = .next t ∧ ¬ BitIn s0.cfg.usrTbe (reg (with1 .uartsr 0#32) .uartsr) ∧
      BitIn s0.cfg.usrTbe (reg t .uartsr)) ∧
    (∃ t, exec (.wrUartsr .four 0#2 0x206#32) (with1 .uartsr 0x206#32) = .next t ∧
      BitIn s0.cfg.usrRbf (reg (with1 .uartsr 0x206#32) .uartsr) ∧ ¬ BitIn s0.cfg.usrRbf (reg t .uartsr) ∧
      BitIn s0.cfg.usrRmb (reg (with1 .uartsr 0x206#32) .uartsr) ∧ ¬ BitIn s0.cfg.usrRmb (reg t .uartsr) ∧
      BitIn s0.cfg.usrTbe (reg (with1 .uartsr 0x206#32) .uartsr) ∧ ¬ BitIn s0.cfg.usrTbe (reg t .uartsr)) :=
  ⟨by decide, ⟨_, rfl, by decide, by decide, by decide, by decide⟩, ⟨_, rfl, by decide, by decide⟩,
   _, rfl, by decide, by decide, by decide, by decide, by decide, by decide⟩

/-- A state with a call pending that is no load; LINCR1 holds every bit it can. -/
theorem witness_RegistersStayLegalUnderEveryStep :
    RegistersLegal (called (with1 .lincr1 0x0001DFA7#32) 0x23000004#32 0xFFFFFFFF#32) ∧
    NoLoadPending (called (with1 .lincr1 0x0001DFA7#32) 0x23000004#32 0xFFFFFFFF#32) ∧
    ∃ t, step (called (with1 .lincr1 0x0001DFA7#32) 0x23000004#32 0xFFFFFFFF#32) = .next t :=
  ⟨by decide, by decide, _, rfl⟩

/-- The last register and the first invalid offset. -/
theorem witness_TraceIsOnlyAnOutput :
    (∃ t, exec (.wrBdrl .one 0#2 0x41#32) s0 = .next t) ∧ (0x053#12).toNat / 4 ≤ 20 ∧ 20 < (0x054#12).toNat / 4 :=
  ⟨⟨_, rfl⟩, by decide, by decide⟩

theorem witness_ParametersAreNeverWrittenAndTheBusOnesNeverRead :
    (∃ t, step (called s0 0x40000000#32 0#32) = .next t) ∧ (∃ t, exec (.rdLincr1 .one 3#2) s0 = .next t) :=
  ⟨⟨_, rfl⟩, _, rfl⟩

/-- The two conditions of the third clause, and the last one. -/
theorem witness_CompleteResetFromAnyStateLeavesTheStatedState :
    (busy.cfg.ok = true ∧ busy.cfg.cr1Init ≠ 0x00000002#32) ∧ otherParams.cr1Init = 0x00000002#32 ∧
    busy.cfg = defaultParams := by decide

theorem witness_PostloadTakesTheRecordVerbatim :
    ({ s0 with record := some ⟨0, List.replicate 21 0xFFFFFFFF#32⟩ } : State).record =
      some ⟨0, List.replicate 21 0xFFFFFFFF#32⟩ ∧ 0 = s0.cfg.snapshotVersion ∧
    (List.replicate 21 0xFFFFFFFF#32).length = 21 := by decide

/-- No record; a record one word short; one word long; of another version. -/
theorem witness_PostloadRefusesAnotherFormat :
    s0.record = none ∧ (List.replicate 20 0#32).length ≠ 21 ∧ (List.replicate 22 0#32).length ≠ 21 ∧
    1 ≠ s0.cfg.snapshotVersion := by decide

theorem witness_SavedSnapshotRestoresTheRegisters : s0.cfg.snapshotVersion = busy.cfg.snapshotVersion := by decide

theorem witness_InitSequenceConfiguresUartControl :
    s0.cfg.ok = true ∧ BitIn s0.cfg.ucrUart 0x33#32 ∧ otherParams.ok = true ∧ BitIn otherParams.ucrUart 0x00400000#32 := by
  decide

/-- The first and the last address of the window, and the addresses beside them. -/
theorem witness_BusRoutesExactlyTheWindow :
    route otherParams 0x40000000 = some 0x000#12 ∧ route otherParams 0x40000FFF = some 0xFFF#12 ∧
    route otherParams 0x3FFFFFFF = none ∧ route otherParams 0x40001000 = none := by
  decide

/-- Each order; the first and the last byte of an access; bytes as many as the size. -/
theorem witness_BusBytesMakeUpTheDatumInEitherOrder :
    (defaultParams.byteOrder = .little ∧ (busBytes defaultParams .three 0xAABBCC#32)[0]? = some 0xCC#8 ∧
      (busBytes defaultParams .three 0xAABBCC#32)[2]? = some 0xAA#8) ∧
    (otherParams.byteOrder = .big ∧ (busBytes otherParams .three 0xAABBCC#32)[0]? = some 0xAA#8 ∧
      (busBytes otherParams .three 0xAABBCC#32)[2]? = some 0xCC#8) ∧
    2 < AccessSize.three.bytes ∧ [0x11#8, 0x22#8].length = AccessSize.two.bytes := by decide

/-- One call in each phase that keeps the order and one that breaks it; then a whole reset pending. -/
theorem witness_ResetPhasesRunInOrderWithNothingBetween :
    decode 0x80000000#32 0#32 = .ok .rstEnter ∧ decode 0xA0000000#32 0#32 = .ok .rstHold ∧
    decode 0xC0000000#32 0#32 = .ok .rstExit ∧ decode 0x40000000#32 0#32 = .ok .gate ∧
    (called s0 0xA0000000#32 0#32).calls = [⟨0xA0000000#32, 0#32, none⟩] ∧ s0.phase = .running ∧
    (inPhase .entered s0).phase = .entered ∧ Instr.gate ≠ .rstHold ∧ (inPhase .held s0).phase = .held ∧
    Instr.gate ≠ .rstExit ∧ Instr.gate ≠ .rstEnter ∧
    phaseOf (step (called s0 0x40000000#32 0#32)) = some .running ∧
    ({ s0 with calls := [⟨0x80000000#32, 0#32, none⟩, ⟨0xA0000000#32, 0#32, none⟩, ⟨0xC0000000#32, 0#32, none⟩] } :
      State).phase = .running := by decide

end Sys2Proof.Tests
end

/-! The scope of a step (00_scope.md): the operation of the first pending call. -/

namespace Sys2Proof.Machine

/-- The one case in which an operation is next (R73, R85, R230). -/
theorem nextOperation_of_call {s : State} {c : Call} {rest : List Call} {i : Instr} {ph : ResetPhase}
    (hcalls : s.calls = c :: rest) (hdecode : decode c.w c.d = .ok i) (horder : phaseAfter s.phase i = some ph)
    (hpermitted : notPermitted i s = none) :
    nextOperation s = some (.ok (i, takeCall s c rest ph)) := by
  simp [nextOperation, hcalls, hdecode, horder, hpermitted]

theorem step_of_nextOperation {s t : State} {i : Instr} (h : nextOperation s = some (.ok (i, t))) :
    step s = exec i t := by
  simp [step, h]

/-- Settles O6: the checks passed, the next operation is the decoded one, and `takeCall` is the state the statement
writes out. -/
theorem stepRunsTheDecodedCall : Obligations.StepRunsTheDecodedCall := by
  intro s c rest i ph hcalls hdecode horder hpermitted
  have hnext : nextOperation s = some (.ok (i, takeCall s c rest ph)) :=
    nextOperation_of_call hcalls hdecode horder hpermitted
  exact step_of_nextOperation hnext

end Sys2Proof.Machine

/-! The status flags (10_state.md R44): what each operation leaves in UARTSR, and from it how a flag rises and falls. -/

namespace Sys2Proof.Machine

/-- What an operation other than POSTLOAD does to UARTSR: five write it, each by its own rule, and the rest keep it. -/
inductive UartsrEffect (s t : State) : Instr → Prop where
  | kept (i : Instr) (h : reg t .uartsr = reg s .uartsr) : UartsrEffect s t i
  /-- R231: the power-on value. -/
  | resetEnter (h : reg t .uartsr = 0#32) : UartsrEffect s t .rstEnter
  /-- R232. -/
  | resetHold (h : reg t .uartsr = reg s .uartsr ||| s.cfg.usrTbe) : UartsrEffect s t .rstHold
  /-- R172. -/
  | delivery (byte : Byte) (h : reg t .uartsr = reg s .uartsr ||| s.cfg.usrRbf ||| s.cfg.usrRmb) :
      UartsrEffect s t (.rx byte)
  /-- R115. -/
  | transmit (size : AccessSize) (lane : Lane) (data : Word)
      (h : reg t .uartsr = reg s .uartsr ||| s.cfg.usrTbe) : UartsrEffect s t (.wrBdrl size lane data)
  /-- R106. -/
  | clear (size : AccessSize) (lane : Lane) (data : Word)
      (h : reg t .uartsr = reg s .uartsr &&& ~~~(lowPart size data &&& 0x0000FFFF#32)) :
      UartsrEffect s t (.wrUartsr size lane data)

theorem readTouch_reg_uartsr (r : Reg) (s : State) : reg (readTouch r s) .uartsr = reg s .uartsr := by
  cases r <;> rfl

/-- A register rule changes UARTSR only for UARTSR itself and for BDRL (R106, R115). -/
theorem writeRule_reg_uartsr (r : Reg) (offset : Offset) (v : Word) (s : State)
    (hsr : r ≠ .uartsr) (hbdrl : r ≠ .bdrl) :
    reg (writeRule r offset v s) .uartsr = reg s .uartsr := by
  cases r
  case lincr1 => simp [writeRule, writeLincr1_reg]
  case linier => simp [writeRule, writeLinier_reg]
  case uartcr => simp [writeRule, writeUartcr_reg]
  case uartsr => exact absurd rfl hsr
  case bdrl => exact absurd rfl hbdrl
  all_goals exact (storeInert_spec _ offset v s).1 .uartsr

/-- A bus write leaves in each register what its rule left there (R100). -/
theorem reg_of_busWrite {size : AccessSize} {data : Word} {rule : Word → State → State} {s t : State}
    (h : busWrite size data rule s = .next t) (q : Reg) :
    reg t q = reg (rule (lowPart size data) (answerWith s .nothing)) q := by
  obtain ⟨t', ht', hreg, -⟩ := busWrite_spec size data rule s
  cases ht'.symm.trans h
  exact hreg q

theorem uartsrEffect_writeOf {r : Reg} {size : AccessSize} {lane : Lane} {data : Word} {s t : State}
    (h : exec (writeOf r size lane data) s = .next t) : UartsrEffect s t (writeOf r size lane data) := by
  rw [exec_writeOf] at h
  have hreg := reg_of_busWrite h .uartsr
  by_cases hsr : r = .uartsr
  · subst hsr
    exact .clear size lane data (hreg.trans (writeUartsr_reg _ _ _))
  by_cases hbdrl : r = .bdrl
  · subst hbdrl
    exact .transmit size lane data (hreg.trans (writeBdrl_reg _ _ _))
  · exact .kept _ (hreg.trans (writeRule_reg_uartsr r _ _ _ hsr hbdrl))

theorem exec_uartsrEffect (i : Instr) (s t : State) (hi : i ≠ .postload) (h : exec i s = .next t) :
    UartsrEffect s t i := by
  induction i using instr_shapes with
  | read r size lane =>
    rw [exec_readOf] at h
    cases h
    exact .kept _ (readTouch_reg_uartsr r s)
  | write r size lane data => exact uartsrEffect_writeOf h
  | rdInvalid size offset => cases h; exact .kept _ rfl
  | wrInvalid size offset data =>
    rw [exec_wrInvalid] at h
    exact .kept _ (reg_of_busWrite h .uartsr)
  | gate => cases h; exact .kept _ rfl
  | rx byte => cases h; exact .delivery byte rfl
  | rstEnter => cases h; exact .resetEnter rfl
  | rstHold => cases h; exact .resetHold rfl
  | rstExit => cases h; exact .kept _ rfl
  | postload => exact absurd rfl hi

/-- A bit of UARTSR rises by a delivery, as a receive flag, or by a BDRL write or reset hold, as the transmit flag. -/
theorem UartsrEffect.rise {s t : State} {i : Instr} (he : UartsrEffect s t i) {m : Word} (hm : isOneBit m = true)
    (hclear : ¬ BitIn m (reg s .uartsr)) (hset : BitIn m (reg t .uartsr)) :
    ((∃ b, i = .rx b) ∧ (BitIn m s.cfg.usrRbf ∨ BitIn m s.cfg.usrRmb)) ∨
    ((i = .rstHold ∨ ∃ size lane data, i = .wrBdrl size lane data) ∧ BitIn m s.cfg.usrTbe) := by
  cases he with
  | kept i h => exact absurd (h ▸ hset) hclear
  | resetEnter h => simp [h, BitIn] at hset
  | resetHold h =>
    rw [h, bitIn_or] at hset
    exact .inr ⟨.inl rfl, hset.resolve_left hclear⟩
  | delivery byte h =>
    rw [h, bitIn_or, bitIn_or, or_assoc] at hset
    exact .inl ⟨⟨byte, rfl⟩, hset.resolve_left hclear⟩
  | transmit size lane data h =>
    rw [h, bitIn_or] at hset
    exact .inr ⟨.inr ⟨size, lane, data, rfl⟩, hset.resolve_left hclear⟩
  | clear size lane data h =>
    rw [h, bitIn_and _ _ _ hm] at hset
    exact absurd hset.1 hclear

/-- A bit of UARTSR falls by reset enter, or by a UARTSR write of a value that has the bit. -/
theorem UartsrEffect.fall {s t : State} {i : Instr} (he : UartsrEffect s t i) {m : Word} (hm : isOneBit m = true)
    (hset : BitIn m (reg s .uartsr)) (hclear : ¬ BitIn m (reg t .uartsr)) :
    i = .rstEnter ∨ ∃ size lane data, i = .wrUartsr size lane data ∧ BitIn m (lowPart size data) := by
  cases he with
  | kept i h => exact absurd (h ▸ hset) hclear
  | resetEnter h => exact .inl rfl
  | resetHold h =>
    rw [h, bitIn_or] at hclear
    exact absurd (.inl hset) hclear
  | delivery byte h =>
    rw [h, bitIn_or, bitIn_or] at hclear
    exact absurd (.inl (.inl hset)) hclear
  | transmit size lane data h =>
    rw [h, bitIn_or] at hclear
    exact absurd (.inl hset) hclear
  | clear size lane data h =>
    rw [h, bitIn_and _ _ _ hm, bitIn_not _ _ hm, bitIn_and _ _ _ hm] at hclear
    exact .inr ⟨size, lane, data, rfl, by tauto⟩

/-- Settles O43: R10 makes the three flags different single bits, so a rise of one names the operations that set it. -/
theorem statusFlagsAreWrittenOnlyAsListed : Obligations.StatusFlagsAreWrittenOnlyAsListed := by
  intro i s t hok hi h
  have he := exec_uartsrEffect i s t hi h
  obtain ⟨-, -, -, hrbf, hrmb, htbe, -, -, -, -, -, hrbf_tbe, hrmb_tbe, -⟩ := params_ok_spec s.cfg hok
  refine ⟨fun m hm hclear hset => ?_, fun hclear hset => ?_, fun m hm hset hclear => ?_⟩
  · have hone : isOneBit m = true := by rcases hm with rfl | rfl <;> assumption
    have hnot : ¬ BitIn m s.cfg.usrTbe := by
      rcases hm with rfl | rfl
      · exact bitIn_other _ _ hrbf htbe hrbf_tbe
      · exact bitIn_other _ _ hrmb htbe hrmb_tbe
    rcases he.rise hone hclear hset with ⟨hrx, -⟩ | ⟨-, hbit⟩
    · exact hrx
    · exact absurd hbit hnot
  · rcases he.rise htbe hclear hset with ⟨-, hbit | hbit⟩ | ⟨hop, -⟩
    · exact absurd hbit (bitIn_other _ _ htbe hrbf hrbf_tbe.symm)
    · exact absurd hbit (bitIn_other _ _ htbe hrmb hrmb_tbe.symm)
    · exact hop
  · have hone : isOneBit m = true := by rcases hm with rfl | rfl | rfl <;> assumption
    exact he.fall hone hset hclear

end Sys2Proof.Machine

/-! The event trace (10_state.md R46): every operation appends to it and none looks at it. -/

namespace Sys2Proof.Machine

/-- The state with another trace. -/
def withTrace (s : State) (tr : List Event) : State :=
  { s with trace := tr }

section
variable (s : State) (tr : List Event)

@[simp] theorem withTrace_trace : (withTrace s tr).trace = tr := rfl
@[simp] theorem withTrace_cfg : (withTrace s tr).cfg = s.cfg := rfl
@[simp] theorem reg_withTrace (q : Reg) : reg (withTrace s tr) q = reg s q := rfl
@[simp] theorem inInit_withTrace : inInit (withTrace s tr) = inInit s := rfl
@[simp] theorem uartMode_withTrace : uartMode (withTrace s tr) = uartMode s := rfl
@[simp] theorem acknowledgesReceive_withTrace (v : Word) :
    acknowledgesReceive v (withTrace s tr) = acknowledgesReceive v s := rfl
@[simp] theorem setReg_withTrace (r : Reg) (v : Word) :
    setReg (withTrace s tr) r v = withTrace (setReg s r v) tr := rfl
@[simp] theorem emit_withTrace (e : Event) : emit (withTrace s tr) e = withTrace (emit s e) (tr ++ [e]) := rfl

theorem readTouch_withTrace (r : Reg) : readTouch r (withTrace s tr) = withTrace (readTouch r s) tr := by
  cases r <;> rfl

theorem readTouch_trace (r : Reg) : (readTouch r s).trace = s.trace := by
  cases r <;> rfl

end

/-- From any trace, `f` makes the same change and appends the same events: it does not look at the trace. -/
def TraceBlind (f : State → State) : Prop :=
  ∀ s, ∃ es, ∀ tr, f (withTrace s tr) = withTrace (f s) (tr ++ es)

theorem TraceBlind.comp {f g : State → State} (hg : TraceBlind g) (hf : TraceBlind f) :
    TraceBlind fun s => g (f s) := by
  intro s
  obtain ⟨es, hes⟩ := hf s
  obtain ⟨es', hes'⟩ := hg (f s)
  exact ⟨es ++ es', fun tr => by simp only [hes, hes', List.append_assoc]⟩

/-- A state update that leaves the trace alone and does not look at it. -/
theorem traceBlind_of_silent {f : State → State} (h : ∀ s tr, f (withTrace s tr) = withTrace (f s) tr) :
    TraceBlind f :=
  fun s => ⟨[], fun tr => by rw [h, List.append_nil]⟩

theorem traceBlind_answerWith (a : Answer) : TraceBlind fun s => answerWith s a :=
  traceBlind_of_silent fun _ _ => rfl

theorem traceBlind_emit (e : Event) : TraceBlind fun s => emit s e :=
  fun _ => ⟨[e], fun _ => rfl⟩

theorem traceBlind_updateIRQ : TraceBlind updateIRQ :=
  fun s => ⟨[.irqLevel (lineLevel s)], fun _ => rfl⟩

theorem traceBlind_writeLincr1 (v : Word) : TraceBlind (writeLincr1 v) := by
  refine traceBlind_of_silent fun s tr => ?_
  by_cases hinit : hasBit (v &&& cr1WMask) s.cfg.cr1Init = true <;> simp [writeLincr1, hinit]

theorem traceBlind_writeUartcr (v : Word) : TraceBlind (writeUartcr v) := by
  refine traceBlind_of_silent fun s tr => ?_
  by_cases hinit : inInit s = true
  · by_cases huart : uartMode (setReg s .uartcr (reg s .uartcr ||| (v &&& s.cfg.ucrUart))) = true <;>
      simp [writeUartcr, hinit, huart]
  · by_cases huart : uartMode s = true <;> simp [writeUartcr, hinit, huart]

/-- The acknowledgement decides whether `Resume` is emitted, and reads UARTSR only (R106). -/
theorem traceBlind_writeUartsr (v : Word) : TraceBlind (writeUartsr v) := by
  intro s
  by_cases hack : acknowledgesReceive (v &&& usrWMask) s = true
  · exact ⟨[.resume], fun tr => by simp [writeUartsr, hack]⟩
  · exact ⟨[], fun tr => by simp [writeUartsr, hack]⟩

theorem traceBlind_writeRule (r : Reg) (offset : Offset) (v : Word) : TraceBlind (writeRule r offset v) := by
  cases r
  case lincr1 => exact traceBlind_writeLincr1 v
  case linier => exact traceBlind_of_silent fun _ _ => rfl
  case uartcr => exact traceBlind_writeUartcr v
  case uartsr => exact traceBlind_writeUartsr v
  case bdrl => exact fun _ => ⟨[.txByte (charByte v)], fun _ => rfl⟩
  all_goals exact fun _ => ⟨[.diag .unimplementedRegister offset], fun _ => rfl⟩

/-- The same of an operation: wherever it answers next, it does so from any trace, with the same events. -/
def OperationTraceBlind (op : State → Result) : Prop :=
  ∀ s t, op s = .next t → ∃ es, ∀ tr, op (withTrace s tr) = .next (withTrace t (tr ++ es))

theorem operationTraceBlind_of_next {op : State → Result} {f : State → State} (hop : ∀ s, op s = .next (f s))
    (hf : TraceBlind f) : OperationTraceBlind op := by
  intro s t h
  cases (hop s).symm.trans h
  obtain ⟨es, hes⟩ := hf s
  exact ⟨es, fun tr => by rw [hop, hes]⟩

/-- The events an operation appends: its own trace is one of those it is run from. -/
theorem OperationTraceBlind.appends {op : State → Result} (hop : OperationTraceBlind op) {s t : State}
    (h : op s = .next t) :
    ∃ es, t.trace = s.trace ++ es ∧ ∀ tr, op (withTrace s tr) = .next (withTrace t (tr ++ es)) := by
  obtain ⟨es, hes⟩ := hop s t h
  have hself : Host.Outcome.next t = .next (withTrace t (s.trace ++ es)) := h.symm.trans (hes s.trace)
  refine ⟨es, ?_, hes⟩
  rw [Host.Outcome.next.inj hself, withTrace_trace]

theorem operationTraceBlind_busWrite {size : AccessSize} {data : Word} {rule : Word → State → State}
    (hrule : ∀ v, TraceBlind (rule v)) : OperationTraceBlind (busWrite size data rule) :=
  operationTraceBlind_of_next (fun _ => rfl)
    (traceBlind_updateIRQ.comp ((hrule _).comp (traceBlind_answerWith .nothing)))

theorem operationTraceBlind_readOf (r : Reg) (size : AccessSize) (lane : Lane) :
    OperationTraceBlind (exec (readOf r size lane)) :=
  operationTraceBlind_of_next (exec_readOf r size lane)
    (traceBlind_of_silent fun s tr => by rw [readTouch_withTrace, reg_withTrace]; rfl)

/-- A post-load looks at the record and the parameters (R235). -/
theorem operationTraceBlind_postload : OperationTraceBlind (exec .postload) := by
  intro s t h
  obtain ⟨r, f, hrecord, hregs, rfl⟩ := (exec_postload_next s t).1 h
  exact ⟨[.irqLevel (lineLevel (loadRegs s f))],
    fun tr => (exec_postload_next _ _).2 ⟨r, f, hrecord, hregs, rfl⟩⟩

theorem exec_operationTraceBlind (i : Instr) : OperationTraceBlind (exec i) := by
  induction i using instr_shapes with
  | read r size lane => exact operationTraceBlind_readOf r size lane
  | write r size lane data =>
    rw [funext (exec_writeOf r size lane data)]
    exact operationTraceBlind_busWrite (traceBlind_writeRule r _)
  | rdInvalid size offset =>
    exact operationTraceBlind_of_next (fun _ => rfl) ((traceBlind_answerWith _).comp (traceBlind_emit _))
  | wrInvalid size offset data =>
    rw [funext (exec_wrInvalid size offset data)]
    exact operationTraceBlind_busWrite fun _ => traceBlind_emit _
  | gate => exact operationTraceBlind_of_next (fun _ => rfl) (traceBlind_of_silent fun _ _ => rfl)
  | rx byte =>
    exact operationTraceBlind_of_next (fun _ => rfl)
      (traceBlind_updateIRQ.comp (traceBlind_of_silent fun _ _ => rfl))
  | rstEnter => exact operationTraceBlind_of_next (fun _ => rfl) (traceBlind_of_silent fun _ _ => rfl)
  | rstHold => exact operationTraceBlind_of_next (fun _ => rfl) (traceBlind_of_silent fun _ _ => rfl)
  | rstExit =>
    exact operationTraceBlind_of_next (fun _ => rfl)
      ((traceBlind_emit .resume).comp (traceBlind_updateIRQ.comp (traceBlind_answerWith .nothing)))
  | postload => exact operationTraceBlind_postload

/-- A read of a valid register emits nothing (R140, R141). -/
theorem exec_readAt_valid_trace (offset : Offset) (size : AccessSize) (s : State) (h : offset.toNat / 4 ≤ 20) :
    ∃ t, exec (readAt offset size) s = .next t ∧ t.trace = s.trace := by
  obtain ⟨r, hr⟩ := (offset_cases offset).resolve_right (by omega)
  rw [readAt_valid r offset size hr, exec_readOf]
  exact ⟨_, rfl, readTouch_trace s r⟩

/-- A read of an invalid offset emits its report (R162). -/
theorem exec_readAt_invalid_trace (offset : Offset) (size : AccessSize) (s : State) (h : 20 < offset.toNat / 4) :
    ∃ t, exec (readAt offset size) s = .next t ∧ t.trace = s.trace ++ [.diag .invalidRegister offset] := by
  rw [readAt_invalid offset size h]
  exact ⟨_, rfl, rfl⟩

/-- A write of an invalid offset emits its report, then the level (R122, R100, D11). -/
theorem exec_writeAt_invalid_trace (offset : Offset) (size : AccessSize) (data : Word) (s : State)
    (h : 20 < offset.toNat / 4) :
    ∃ t, exec (writeAt offset size data) s = .next t ∧
      t.trace = s.trace ++ [.diag .invalidRegister offset, .irqLevel t.irq] := by
  rw [writeAt_invalid offset size data h, exec_wrInvalid]
  exact ⟨_, rfl, List.append_assoc _ _ _⟩

/-- Settles O46: every operation is blind to the trace, and the three kinds of access emit what the lemmas above say. -/
theorem traceIsOnlyAnOutput : Obligations.TraceIsOnlyAnOutput :=
  ⟨fun i _ _ h => (exec_operationTraceBlind i).appends h,
   fun offset size s h => exec_readAt_valid_trace offset size s h,
   fun offset size data s h =>
     ⟨exec_readAt_invalid_trace offset size s h, exec_writeAt_invalid_trace offset size data s h⟩⟩

end Sys2Proof.Machine

/-! The decoder on bus operations (30_encoding.md R83, R85): what the two bus kinds decode to, and that no other kind is
an access. -/

namespace Sys2Proof.Machine

@[simp] theorem busAccess_readOf (r : Reg) (size : AccessSize) (lane : Lane) :
    busAccess (readOf r size lane) = some (regOffset r lane, size) := by
  cases r <;> rfl

@[simp] theorem busAccess_writeOf (r : Reg) (size : AccessSize) (lane : Lane) (data : Word) :
    busAccess (writeOf r size lane data) = some (regOffset r lane, size) := by
  cases r <;> rfl

/-- The lane of an offset is its remainder modulo four (R62). -/
theorem lane_eq_ofNat (offset : Offset) : offset.extractLsb' 0 2 = BitVec.ofNat 2 offset.toNat := by
  apply BitVec.eq_of_toNat_eq
  simp [BitVec.extractLsb'_toNat]

/-- An offset is made up of the index of its register and its lane (R62). -/
theorem regOffset_of_index (r : Reg) (offset : Offset) (h : offset.toNat / 4 = regIndex r) :
    regOffset r (offset.extractLsb' 0 2) = offset := by
  apply BitVec.eq_of_toNat_eq
  rw [regOffset_toNat, ← h, lane_eq_ofNat, BitVec.toNat_ofNat]
  omega

theorem busAccess_readAt (offset : Offset) (size : AccessSize) :
    busAccess (readAt offset size) = some (offset, size) := by
  rcases offset_cases offset with ⟨r, hr⟩ | hinv
  · rw [readAt_valid r offset size hr, busAccess_readOf, regOffset_of_index r offset hr]
  · rw [readAt_invalid offset size hinv]
    rfl

theorem busAccess_writeAt (offset : Offset) (size : AccessSize) (data : Word) :
    busAccess (writeAt offset size data) = some (offset, size) := by
  rcases offset_cases offset with ⟨r, hr⟩ | hinv
  · rw [writeAt_valid r offset size data hr, busAccess_writeOf, regOffset_of_index r offset hr]
  · rw [writeAt_invalid offset size data hinv]
    rfl

/-- A kind with no operands decodes to its own operation or not at all (R85). -/
theorem decodeControl_ok {i j : Instr} {w d : Word} (h : decodeControl i w d = .ok j) : j = i := by
  unfold decodeControl at h
  split at h
  · cases h
  · split at h
    · cases h
    · exact (Except.ok.inj h).symm

/-- What an accepted pair is: a read for kind 0, a write of `D` for kind 1, and no access for the others (R85). -/
theorem decode_ok_cases {w d : Word} {i : Instr} (h : decode w d = .ok i) :
    ((w.extractLsb' 29 3).toNat = 0 ∧ i = readAt (w.extractLsb' 0 12) (sizeOfField (w.extractLsb' 24 2))) ∨
    ((w.extractLsb' 29 3).toNat = 1 ∧ i = writeAt (w.extractLsb' 0 12) (sizeOfField (w.extractLsb' 24 2)) d) ∨
    busAccess i = none := by
  unfold decode at h
  split at h
  · cases h
  split at h
  case h_1 hkind =>
    split at h
    · cases h
    · exact .inl ⟨hkind, (Except.ok.inj h).symm⟩
  case h_2 hkind =>
    split at h
    · cases h
    · exact .inr (.inl ⟨hkind, (Except.ok.inj h).symm⟩)
  case h_4 =>
    split at h
    · cases h
    · split at h
      · cases h
      · exact .inr (.inr (Except.ok.inj h ▸ rfl))
  all_goals exact .inr (.inr (decodeControl_ok h ▸ rfl))

theorem kindField_toNat (w : Word) : (w.extractLsb' 29 3).toNat = w.toNat / 2 ^ 29 := by
  have := w.isLt
  rw [BitVec.extractLsb'_toNat, Nat.shiftRight_eq_div_pow]
  omega

theorem offsetField_toNat (w : Word) : (w.extractLsb' 0 12).toNat = w.toNat % 4096 := by
  rw [BitVec.extractLsb'_toNat, Nat.shiftRight_zero]

theorem sizeOfField_word_bytes (w : Word) :
    (sizeOfField (w.extractLsb' 24 2)).bytes = w.toNat / 2 ^ 24 % 4 + 1 := by
  rw [sizeOfField_bytes, BitVec.extractLsb'_toNat, Nat.shiftRight_eq_div_pow]

/-- The read an offset spells, by whether the offset selects a register (R63). -/
theorem readAt_cases (offset : Offset) (size : AccessSize) :
    (∃ r, regIndex r = offset.toNat / 4 ∧ readAt offset size = readOf r size (BitVec.ofNat 2 offset.toNat)) ∨
    (20 < offset.toNat / 4 ∧ readAt offset size = .rdInvalid size offset) := by
  rcases offset_cases offset with ⟨r, hr⟩ | hinv
  · exact .inl ⟨r, hr.symm, by rw [readAt_valid r offset size hr, lane_eq_ofNat]⟩
  · exact .inr ⟨hinv, readAt_invalid offset size hinv⟩

/-- The write an offset spells, by whether the offset selects a register (R63). -/
theorem writeAt_cases (offset : Offset) (size : AccessSize) (data : Word) :
    (∃ r, regIndex r = offset.toNat / 4 ∧
      writeAt offset size data = writeOf r size (BitVec.ofNat 2 offset.toNat) data) ∨
    (20 < offset.toNat / 4 ∧ writeAt offset size data = .wrInvalid size offset data) := by
  rcases offset_cases offset with ⟨r, hr⟩ | hinv
  · exact .inl ⟨r, hr.symm, by rw [writeAt_valid r offset size data hr, lane_eq_ofNat]⟩
  · exact .inr ⟨hinv, writeAt_invalid offset size data hinv⟩

/-- Settles O4: only the two bus kinds decode to an access, and then its offset and size are the fields of the word. -/
theorem decodedAccessHasTheOffsetSizeAndRegisterOfItsWord :
    Obligations.DecodedAccessHasTheOffsetSizeAndRegisterOfItsWord := by
  intro w d i offset size hdecode haccess
  rcases decode_ok_cases hdecode with ⟨hkind, rfl⟩ | ⟨hkind, rfl⟩ | hnone
  · cases (busAccess_readAt _ _).symm.trans haccess
    exact ⟨offsetField_toNat w, sizeOfField_word_bytes w, .inl ⟨kindField_toNat w ▸ hkind, readAt_cases _ _⟩⟩
  · cases (busAccess_writeAt _ _ d).symm.trans haccess
    exact ⟨offsetField_toNat w, sizeOfField_word_bytes w, .inr ⟨kindField_toNat w ▸ hkind, writeAt_cases _ _ d⟩⟩
  · cases hnone.symm.trans haccess

end Sys2Proof.Machine

/-! The bus in front of the block (20_memory.md R60, R64): its window, and the calls it makes. -/

namespace Sys2Proof.Machine

/-- Every offset a read's pair spells decodes to that read (R85, R88). -/
theorem decode_encodeRead (size : AccessSize) (offset : Offset) :
    decode (encodeRead size offset).1 (encodeRead size offset).2 = .ok (readAt offset size) := by
  simp [decode, encodeRead]

/-- A write's pair decodes to that write where its data fits its size (R85, R88). -/
theorem decode_encodeWrite (size : AccessSize) (offset : Offset) (data : Word) (h : dataFits size data = true) :
    decode (encodeWrite size offset data).1 (encodeWrite size offset data).2 = .ok (writeAt offset size data) := by
  simp [decode, encodeWrite, h]

/-- The low `8*size` bits of a word fit the size (R81). -/
theorem dataFits_lowPart (size : AccessSize) (v : Word) : dataFits size (lowPart size v) = true := by
  rw [dataFits, beq_iff_eq]
  apply BitVec.eq_of_toNat_eq
  rw [BitVec.toNat_ushiftRight, lowPart_toNat, Nat.shiftRight_eq_div_pow]
  exact Nat.div_eq_of_lt (Nat.mod_lt _ (by positivity))

/-- The bus's window (R60). -/
theorem route_eq_some_iff (cfg : Params) (a : Nat) (offset : Offset) :
    route cfg a = some offset ↔ cfg.base ≤ a ∧ a < cfg.base + 4096 ∧ offset.toNat = a - cfg.base := by
  unfold route
  by_cases hwin : cfg.base ≤ a ∧ a < cfg.base + 4096
  · have hlt : a - cfg.base < 2 ^ 12 := by omega
    rw [if_pos hwin, Option.some.injEq, ← BitVec.toNat_inj, BitVec.toNat_ofNat, Nat.mod_eq_of_lt hlt]
    exact ⟨fun h => ⟨hwin.1, hwin.2, h.symm⟩, fun ⟨_, _, h⟩ => h.symm⟩
  · rw [if_neg hwin]
    exact ⟨fun h => (nomatch h), fun ⟨hlo, hhi, _⟩ => absurd ⟨hlo, hhi⟩ hwin⟩

theorem guestRead_of_route {cfg : Params} {a : Nat} {offset : Offset} (h : route cfg a = some offset)
    (size : AccessSize) :
    ∃ c, guestRead cfg a size = some c ∧ c.record = none ∧ decode c.w c.d = .ok (readAt offset size) :=
  ⟨⟨(encodeRead size offset).1, (encodeRead size offset).2, none⟩, by rw [guestRead, h]; rfl, rfl,
    decode_encodeRead size offset⟩

theorem guestWrite_of_route {cfg : Params} {a : Nat} {offset : Offset} (h : route cfg a = some offset)
    (size : AccessSize) (data : Word) :
    ∃ c, guestWrite cfg a size data = some c ∧ c.record = none ∧
      decode c.w c.d = .ok (writeAt offset size (lowPart size data)) :=
  ⟨⟨(encodeWrite size offset (lowPart size data)).1, (encodeWrite size offset (lowPart size data)).2, none⟩,
    by rw [guestWrite, h, lowBytes_eq_lowPart]; rfl, rfl,
    decode_encodeWrite size offset _ (dataFits_lowPart size data)⟩

/-- Settles O57: the window is `route_eq_some_iff`, and each call the bus makes is an encoding the decoder takes back. -/
theorem busRoutesExactlyTheWindow : Obligations.BusRoutesExactlyTheWindow := by
  intro cfg a size data
  refine ⟨route_eq_some_iff cfg a, fun offset h => ⟨guestRead_of_route h size, guestWrite_of_route h size data⟩,
    fun hnone => ⟨?_, ?_⟩⟩
  · rw [guestRead, hnone]
    rfl
  · rw [guestWrite, hnone]
    rfl

end Sys2Proof.Machine

/-! Bytes and data (20_memory.md R64, R67): the bytes of a word from the least significant one up, the datum made of
them, and both in the order of the bus. -/

namespace Sys2Proof.Machine

@[simp] theorem lsbFirstBytes_length (n : Nat) (v : Word) : (lsbFirstBytes n v).length = n := by
  induction n generalizing v with
  | zero => rfl
  | succ n ih => simp [lsbFirstBytes, ih]

/-- Byte `k` holds bits `8k+7` to `8k`. -/
theorem lsbFirstBytes_getElem? (n : Nat) (v : Word) (k : Nat) (hk : k < n) :
    (lsbFirstBytes n v)[k]? = some (BitVec.ofNat 8 (v.toNat / 2 ^ (8 * k))) := by
  induction n generalizing v k with
  | zero => omega
  | succ n ih =>
    cases k with
    | zero => simp [lsbFirstBytes]
    | succ k =>
      have hpow : 2 ^ 8 * 2 ^ (8 * k) = 2 ^ (8 * (k + 1)) := by ring
      rw [lsbFirstBytes, List.getElem?_cons_succ, ih _ k (by omega), BitVec.toNat_ushiftRight,
        Nat.shiftRight_eq_div_pow, Nat.div_div_eq_div_mul, hpow]

/-- The first `n` bytes depend on the low `8n` bits only. -/
theorem lsbFirstBytes_congr (n : Nat) (v u : Word) (h : ∀ i < 8 * n, v.getLsbD i = u.getLsbD i) :
    lsbFirstBytes n v = lsbFirstBytes n u := by
  induction n generalizing v u with
  | zero => rfl
  | succ n ih =>
    have hfirst : v.setWidth 8 = u.setWidth 8 := by
      ext i hi
      simpa using h i (by omega)
    have hrest : ∀ i < 8 * n, (v >>> 8).getLsbD i = (u >>> 8).getLsbD i := fun i hi => by
      simpa using h (8 + i) (by omega)
    rw [lsbFirstBytes, lsbFirstBytes, hfirst, ih _ _ hrest]

theorem accessSize_bytes_le (size : AccessSize) : size.bytes ≤ 4 := by
  cases size <;> decide

theorem lsbFirstBytes_lowPart (size : AccessSize) (v : Word) :
    lsbFirstBytes size.bytes (lowPart size v) = lsbFirstBytes size.bytes v := by
  refine lsbFirstBytes_congr _ _ _ fun i hi => ?_
  have hsize := accessSize_bytes_le size
  rw [← lowBytes_eq_lowPart, lowBytes, BitVec.getLsbD_setWidth, BitVec.getLsbD_setWidth]
  simp [hi, show i < 32 by omega]

/-- The datum of the first `n` bytes is the low `8n` bits: the first byte, and by induction the bits above it. -/
theorem datumOfLsbFirst_lsbFirstBytes (n : Nat) (v : Word) :
    datumOfLsbFirst (lsbFirstBytes n v) = (v.setWidth (8 * n)).setWidth 32 := by
  induction n generalizing v with
  | zero => ext i hi; simp [lsbFirstBytes, datumOfLsbFirst]
  | succ n ih =>
    rw [lsbFirstBytes, datumOfLsbFirst, ih]
    ext i hi
    by_cases hbyte : i < 8
    · simp [hbyte, show i < 8 * (n + 1) by omega, hi]
    · have hidx : 8 + (i - 8) = i := by omega
      have hbound : i - 8 < 8 * n ↔ i < 8 * (n + 1) := by omega
      simp [hbyte, hidx, hbound, hi]

/-- The first byte is the low byte of the datum, and the rest of the datum stands above it, as far as 32 bits reach. -/
theorem datumOfLsbFirst_cons (b : Byte) (bs : List Byte) :
    (datumOfLsbFirst (b :: bs)).setWidth 8 = b ∧
    ∀ i < 24, (datumOfLsbFirst (b :: bs) >>> 8).getLsbD i = (datumOfLsbFirst bs).getLsbD i := by
  constructor
  · ext i hi
    simp [datumOfLsbFirst]
  · intro i hi
    have hword : i < 32 := by omega
    simp [datumOfLsbFirst, show 8 + i < 32 by omega, BitVec.getLsbD_eq_getElem hword]

/-- Up to four bytes are the bytes of the datum made of them. -/
theorem lsbFirstBytes_datumOfLsbFirst (bs : List Byte) (h : bs.length ≤ 4) :
    lsbFirstBytes bs.length (datumOfLsbFirst bs) = bs := by
  induction bs with
  | nil => rfl
  | cons b bs ih =>
    obtain ⟨hfirst, hrest⟩ := datumOfLsbFirst_cons b bs
    rw [List.length_cons] at h ⊢
    have htail : lsbFirstBytes bs.length (datumOfLsbFirst (b :: bs) >>> 8) = bs :=
      (lsbFirstBytes_congr _ _ _ fun i hi => hrest i (by omega)).trans (ih (by omega))
    rw [lsbFirstBytes, hfirst, htail]

section
variable (cfg : Params) (size : AccessSize) (v : Word)

theorem busBytes_little (h : cfg.byteOrder = .little) : busBytes cfg size v = lsbFirstBytes size.bytes v := by
  rw [busBytes, h]

theorem busBytes_big (h : cfg.byteOrder = .big) : busBytes cfg size v = (lsbFirstBytes size.bytes v).reverse := by
  rw [busBytes, h]

theorem busBytes_length : (busBytes cfg size v).length = size.bytes := by
  cases h : cfg.byteOrder with
  | little => rw [busBytes_little cfg size v h, lsbFirstBytes_length]
  | big => rw [busBytes_big cfg size v h, List.length_reverse, lsbFirstBytes_length]

/-- The big order is the little one from the last byte down. -/
theorem busBytes_big_getElem? (h : cfg.byteOrder = .big) (k : Nat) (hk : k < size.bytes) :
    (busBytes cfg size v)[k]? = some (BitVec.ofNat 8 (v.toNat / 2 ^ (8 * (size.bytes - 1 - k)))) := by
  rw [busBytes_big cfg size v h, List.getElem?_reverse (by simpa using hk), lsbFirstBytes_length,
    lsbFirstBytes_getElem? _ _ _ (by omega)]

theorem busBytes_lowPart : busBytes cfg size (lowPart size v) = busBytes cfg size v := by
  rw [busBytes, busBytes, lsbFirstBytes_lowPart]

theorem datumOfLsbFirst_lsbFirstBytes_size : datumOfLsbFirst (lsbFirstBytes size.bytes v) = lowPart size v := by
  rw [datumOfLsbFirst_lsbFirstBytes, ← lowBytes_eq_lowPart, lowBytes]

theorem busDatum_busBytes : busDatum cfg (busBytes cfg size v) = lowPart size v := by
  cases h : cfg.byteOrder with
  | little => rw [busBytes_little cfg size v h, busDatum, h, datumOfLsbFirst_lsbFirstBytes_size]
  | big => rw [busBytes_big cfg size v h, busDatum, h, List.reverse_reverse, datumOfLsbFirst_lsbFirstBytes_size]

theorem busBytes_busDatum (bs : List Byte) (hlen : bs.length = size.bytes) :
    busBytes cfg size (busDatum cfg bs) = bs := by
  have hle : bs.length ≤ 4 := hlen ▸ accessSize_bytes_le size
  cases h : cfg.byteOrder with
  | little => rw [busBytes_little _ _ _ h, busDatum, h, ← hlen, lsbFirstBytes_datumOfLsbFirst bs hle]
  | big =>
    have hrev := lsbFirstBytes_datumOfLsbFirst bs.reverse (by simpa using hle)
    rw [List.length_reverse, hlen] at hrev
    rw [busBytes_big _ _ _ h, busDatum, h, hrev, List.reverse_reverse]

end

/-- Settles O58: the little order is the order of `lsbFirstBytes` and the big one its reverse, so every part is a fact
about `lsbFirstBytes` and `datumOfLsbFirst`. -/
theorem busBytesMakeUpTheDatumInEitherOrder : Obligations.BusBytesMakeUpTheDatumInEitherOrder := by
  intro cfg size v
  refine ⟨busBytes_length cfg size v, fun h k hk => ?_, busBytes_big_getElem? cfg size v,
    busBytes_lowPart cfg size v, busDatum_busBytes cfg size v, busBytes_busDatum cfg size⟩
  rw [busBytes_little cfg size v h, lsbFirstBytes_getElem? _ _ _ hk]

end Sys2Proof.Machine

/-! Sub-word access (20_memory.md R64, R65): what a read of an offset answers, and how far a write depends on the byte
lane. -/

namespace Sys2Proof.Machine

theorem lowPart_congr {size : AccessSize} {v u : Word}
    (h : v.toNat % 2 ^ (8 * size.bytes) = u.toNat % 2 ^ (8 * size.bytes)) : lowPart size v = lowPart size u := by
  rw [lowPart, lowPart, h]

/-- A read of a register answers its view of the stored value, whatever the lane (R140, R65). -/
theorem exec_readAt_valid {r : Reg} {offset : Offset} (h : offset.toNat / 4 = regIndex r) (size : AccessSize)
    (s : State) :
    exec (readAt offset size) s =
      .next (answerWith (readTouch r s) (.value (readView r (reg s r)) (lowPart size (readView r (reg s r))))) := by
  rw [readAt_valid r offset size h, exec_readOf, busRead_spec]
  rfl

/-- A read of an offset beyond the registers answers 0 (R162). -/
theorem exec_readAt_invalid {offset : Offset} (h : 20 < offset.toNat / 4) (size : AccessSize) (s : State) :
    exec (readAt offset size) s =
      .next (answerWith (report s .invalidRegister offset) (.value 0#32 (lowPart size 0#32))) := by
  rw [readAt_invalid offset size h, exec_rdInvalid, busRead_spec]
  rfl

/-- Settles O23: the answer names the register's view and its low part, and neither looks at the lane. -/
theorem subWordReadsDeliverLowBitsOfTheWholeRegister : Obligations.SubWordReadsDeliverLowBitsOfTheWholeRegister := by
  intro o₁ o₂ z₁ z₂ s hindex
  rcases offset_cases o₁ with ⟨r, hr⟩ | hinv
  · exact ⟨_, _, _, _, _, exec_readAt_valid hr z₁ s, exec_readAt_valid (hindex ▸ hr) z₂ s, rfl, rfl,
      lowPart_toNat _ _, lowPart_toNat _ _, rfl, rfl⟩
  · exact ⟨_, _, _, _, _, exec_readAt_invalid hinv z₁ s, exec_readAt_invalid (hindex ▸ hinv) z₂ s, rfl, rfl,
      lowPart_toNat _ _, lowPart_toNat _ _, rfl, rfl⟩

section
variable (s : State)

@[simp] theorem sentBytes_report (k : DiagKind) (offset : Offset) : sentBytes (report s k offset) = sentBytes s := by
  simp [sentBytes]

@[simp] theorem resumeCount_report (k : DiagKind) (offset : Offset) :
    resumeCount (report s k offset) = resumeCount s := by
  simp [resumeCount]

@[simp] theorem drivenLevels_report (k : DiagKind) (offset : Offset) :
    drivenLevels (report s k offset) = drivenLevels s := by
  simp [drivenLevels]

@[simp] theorem sentBytes_updateIRQ : sentBytes (updateIRQ s) = sentBytes s := by
  simp [sentBytes]

@[simp] theorem resumeCount_updateIRQ : resumeCount (updateIRQ s) = resumeCount s := by
  simp [resumeCount]

@[simp] theorem drivenLevels_updateIRQ : drivenLevels (updateIRQ s) = drivenLevels s ++ [lineLevel s] := by
  simp [drivenLevels]

end

/-- Two states alike in everything a write touches but the diagnostics they have reported. -/
structure AlikeButReports (s t : State) : Prop where
  cfg : s.cfg = t.cfg
  regs : s.regs = t.regs
  irq : s.irq = t.irq
  answer : s.answer = t.answer
  sent : sentBytes s = sentBytes t
  resumes : resumeCount s = resumeCount t
  levels : drivenLevels s = drivenLevels t

theorem AlikeButReports.refl (s : State) : AlikeButReports s s :=
  ⟨rfl, rfl, rfl, rfl, rfl, rfl, rfl⟩

theorem alikeButReports_report (s : State) (k : DiagKind) (o₁ o₂ : Offset) :
    AlikeButReports (report s k o₁) (report s k o₂) :=
  ⟨rfl, rfl, rfl, rfl, by simp, by simp, by simp⟩

/-- The level is one of the parameters and the registers, so both states drive the line alike (R200). -/
theorem AlikeButReports.updateIRQ {s t : State} (h : AlikeButReports s t) :
    AlikeButReports (updateIRQ s) (updateIRQ t) := by
  have hreg : ∀ q, reg t q = reg s q := fun q => congrArg (fileGet · q) h.regs.symm
  have hlevel : lineLevel s = lineLevel t := by
    rw [Bool.eq_iff_iff, lineLevel_spec, lineLevel_spec]
    exact (lineAsserted_congr s t h.cfg.symm (hreg _) (hreg _)).symm
  exact ⟨h.cfg, h.regs, hlevel, h.answer, by simp [h.sent], by simp [h.resumes], by simp [h.levels, hlevel]⟩

/-- A register rule looks at its offset only to report it (R123). -/
theorem writeRule_alike (r : Reg) (o₁ o₂ : Offset) (v : Word) (s : State) :
    AlikeButReports (writeRule r o₁ v s) (writeRule r o₂ v s) := by
  cases r
  case lincr1 | linier | uartcr | uartsr | bdrl => exact .refl _
  all_goals exact alikeButReports_report _ _ o₁ o₂

theorem exec_writeAt_valid {r : Reg} {offset : Offset} (h : offset.toNat / 4 = regIndex r) (size : AccessSize)
    (data : Word) (s : State) :
    exec (writeAt offset size data) s =
      .next (updateIRQ (writeRule r offset (lowPart size data) (answerWith s .nothing))) := by
  rw [writeAt_valid r offset size data h, exec_writeOf, regOffset_of_index r offset h, busWrite, writeValue,
    lowBytes_eq_lowPart]

/-- A write of an offset beyond the registers reports it and discards the value (R122). -/
theorem exec_writeAt_invalid {offset : Offset} (h : 20 < offset.toNat / 4) (size : AccessSize) (data : Word)
    (s : State) :
    exec (writeAt offset size data) s =
      .next (updateIRQ (report (answerWith s .nothing) .invalidRegister offset)) := by
  rw [writeAt_invalid offset size data h]
  rfl

/-- Two writes of one slot with the same low bits differ in the offset they report, at most (R64, R65). -/
theorem exec_writeAt_alike {o₁ o₂ : Offset} {size : AccessSize} {d₁ d₂ : Word} (s : State)
    (hindex : o₁.toNat / 4 = o₂.toNat / 4) (hlow : lowPart size d₁ = lowPart size d₂) :
    ∃ t₁ t₂, exec (writeAt o₁ size d₁) s = .next t₁ ∧ exec (writeAt o₂ size d₂) s = .next t₂ ∧
      AlikeButReports t₁ t₂ := by
  rcases offset_cases o₁ with ⟨r, hr⟩ | hinv
  · refine ⟨_, _, exec_writeAt_valid hr size d₁ s, exec_writeAt_valid (hindex ▸ hr) size d₂ s, ?_⟩
    rw [hlow]
    exact (writeRule_alike r o₁ o₂ _ _).updateIRQ
  · exact ⟨_, _, exec_writeAt_invalid hinv size d₁ s, exec_writeAt_invalid (hindex ▸ hinv) size d₂ s,
      (alikeButReports_report _ _ o₁ o₂).updateIRQ⟩

/-- Settles O24: what the two writes leave apart is an offset in a report, which no clause of the statement counts. -/
theorem subWordWritesActOnTheLowBitsOfTheSelectedRegister :
    Obligations.SubWordWritesActOnTheLowBitsOfTheSelectedRegister := by
  intro o₁ o₂ size d₁ d₂ s hindex hlow
  obtain ⟨t₁, t₂, h₁, h₂, h⟩ := exec_writeAt_alike s hindex (lowPart_congr hlow)
  exact ⟨t₁, t₂, h₁, h₂, h.regs, h.irq, h.answer, h.sent, h.resumes, h.levels⟩

/-- A 4-byte read delivers the whole value it returns (R64). -/
theorem exec_readOf_four (r : Reg) (lane : Lane) (s : State) :
    exec (readOf r .four lane) s =
      .next (answerWith (readTouch r s) (.value (readView r (reg s r)) (readView r (reg s r)))) := by
  rw [exec_readOf, busRead_spec, lowPart_four]
  rfl

/-- Settles O26: every write answers next, and a read from there shows its register through the read rule. -/
theorem readAfterWriteSeesTheStoredValue : Obligations.ReadAfterWriteSeesTheStoredValue := by
  intro r size lane lane' data s
  obtain ⟨t, ht, -⟩ := busWrite_spec size data (writeRule r (regOffset r lane)) s
  exact ⟨t, _, (exec_writeOf r size lane data s).trans ht, exec_readOf_four r lane' t, rfl⟩

end Sys2Proof.Machine

/-! The parameters (00_scope.md R9, R11): no operation writes them, and none looks at those of the bus. -/

namespace Sys2Proof.Machine

theorem readTouch_kept (r : Reg) (s : State) : RestKept s (readTouch r s) := by
  cases r <;> exact ⟨rfl, rfl, rfl, rfl⟩

/-- A bus write keeps what its rule keeps (R100). -/
theorem restKept_of_busWrite {size : AccessSize} {data : Word} {rule : Word → State → State} {s t : State}
    (hrule : ∀ v u, RestKept u (rule v u)) (h : busWrite size data rule s = .next t) : RestKept s t := by
  cases h
  exact hrule (writeValue size data) (answerWith s .nothing)

theorem writeRule_restKept (r : Reg) (offset : Offset) (v : Word) (s : State) :
    RestKept s (writeRule r offset v s) := by
  obtain ⟨hcfg, hcalls, hrecord, -, -, hphase⟩ := writeRule_kept r offset v s
  exact ⟨hcfg, hcalls, hrecord, hphase⟩

theorem exec_restKept {i : Instr} {s t : State} (h : exec i s = .next t) : RestKept s t := by
  induction i using instr_shapes with
  | read r size lane =>
    rw [exec_readOf] at h
    cases h
    exact readTouch_kept r s
  | write r size lane data =>
    rw [exec_writeOf] at h
    exact restKept_of_busWrite (writeRule_restKept r _) h
  | wrInvalid size offset data =>
    rw [exec_wrInvalid] at h
    exact restKept_of_busWrite (rule := fun _ => writeInvalid offset) (fun _ _ => ⟨rfl, rfl, rfl, rfl⟩) h
  | postload =>
    obtain ⟨r, f, -, -, rfl⟩ := (exec_postload_next s t).1 h
    exact ⟨rfl, rfl, rfl, rfl⟩
  | rdInvalid | gate | rx | rstEnter | rstHold | rstExit =>
    cases h
    exact ⟨rfl, rfl, rfl, rfl⟩

theorem step_cfg {s t : State} (h : step s = .next t) : t.cfg = s.cfg := by
  rcases step_next_cases s t h with ⟨-, rfl⟩ | ⟨c, rest, i, ph, -, -, -, -, hexec⟩
  · rfl
  · exact (exec_restKept hexec).1

/-- The state on another bus: the base address, byte order and alignment parameter of `bus`, all else its own. -/
def onBus (bus : Params) (s : State) : State :=
  { s with cfg := { s.cfg with base := bus.base, byteOrder := bus.byteOrder, admitsUnaligned := bus.admitsUnaligned } }

section
variable (bus : Params) (s : State)

@[simp] theorem onBus_cr1Init : (onBus bus s).cfg.cr1Init = s.cfg.cr1Init := rfl
@[simp] theorem onBus_lsrInit : (onBus bus s).cfg.lsrInit = s.cfg.lsrInit := rfl
@[simp] theorem onBus_ucrUart : (onBus bus s).cfg.ucrUart = s.cfg.ucrUart := rfl
@[simp] theorem reg_onBus (q : Reg) : reg (onBus bus s) q = reg s q := rfl
@[simp] theorem inInit_onBus : inInit (onBus bus s) = inInit s := rfl
@[simp] theorem uartMode_onBus : uartMode (onBus bus s) = uartMode s := rfl
@[simp] theorem acknowledgesReceive_onBus (v : Word) :
    acknowledgesReceive v (onBus bus s) = acknowledgesReceive v s := rfl
@[simp] theorem setReg_onBus (r : Reg) (v : Word) : setReg (onBus bus s) r v = onBus bus (setReg s r v) := rfl
@[simp] theorem emit_onBus (e : Event) : emit (onBus bus s) e = onBus bus (emit s e) := rfl

theorem readTouch_onBus (r : Reg) : readTouch r (onBus bus s) = onBus bus (readTouch r s) := by
  cases r <;> rfl

end

/-- A state update that does not look at the parameters of the bus. -/
def BusBlind (f : State → State) : Prop :=
  ∀ bus s, f (onBus bus s) = onBus bus (f s)

theorem busBlind_writeLincr1 (v : Word) : BusBlind (writeLincr1 v) := by
  intro bus s
  by_cases hinit : hasBit (v &&& cr1WMask) s.cfg.cr1Init = true <;> simp [writeLincr1, hinit]

theorem busBlind_writeUartcr (v : Word) : BusBlind (writeUartcr v) := by
  intro bus s
  by_cases hinit : inInit s = true
  · by_cases huart : uartMode (setReg s .uartcr (reg s .uartcr ||| (v &&& s.cfg.ucrUart))) = true <;>
      simp [writeUartcr, hinit, huart]
  · by_cases huart : uartMode s = true <;> simp [writeUartcr, hinit, huart]

theorem busBlind_writeUartsr (v : Word) : BusBlind (writeUartsr v) := by
  intro bus s
  by_cases hack : acknowledgesReceive (v &&& usrWMask) s = true <;> simp [writeUartsr, hack]

theorem busBlind_writeRule (r : Reg) (offset : Offset) (v : Word) : BusBlind (writeRule r offset v) := by
  cases r
  case lincr1 => exact busBlind_writeLincr1 v
  case uartcr => exact busBlind_writeUartcr v
  case uartsr => exact busBlind_writeUartsr v
  all_goals exact fun _ _ => rfl

/-- The same of an operation: wherever it answers next, it does so on any bus. -/
def OperationBusBlind (op : State → Result) : Prop :=
  ∀ bus s t, op s = .next t → op (onBus bus s) = .next (onBus bus t)

theorem operationBusBlind_of_next {op : State → Result} {f : State → State} (hop : ∀ s, op s = .next (f s))
    (hf : BusBlind f) : OperationBusBlind op := by
  intro bus s t h
  cases (hop s).symm.trans h
  rw [hop, hf]

/-- `UpdateIRQ()` computes the level from the registers and the role bits (R200). -/
theorem operationBusBlind_busWrite {size : AccessSize} {data : Word} {rule : Word → State → State}
    (hrule : ∀ v, BusBlind (rule v)) : OperationBusBlind (busWrite size data rule) :=
  operationBusBlind_of_next (fun _ => rfl) fun bus s =>
    congrArg updateIRQ (hrule (writeValue size data) bus (answerWith s .nothing))

theorem operationBusBlind_readOf (r : Reg) (size : AccessSize) (lane : Lane) :
    OperationBusBlind (exec (readOf r size lane)) :=
  operationBusBlind_of_next (exec_readOf r size lane) fun bus s => by
    rw [readTouch_onBus, reg_onBus]
    rfl

/-- A post-load looks at the record and at `P_SNAPSHOT_VERSION`, which is not the bus's (R235, R236). -/
theorem operationBusBlind_postload : OperationBusBlind (exec .postload) := by
  intro bus s t h
  obtain ⟨r, f, hrecord, hregs, rfl⟩ := (exec_postload_next s t).1 h
  exact (exec_postload_next _ _).2 ⟨r, f, hrecord, hregs, rfl⟩

theorem exec_operationBusBlind (i : Instr) : OperationBusBlind (exec i) := by
  induction i using instr_shapes with
  | read r size lane => exact operationBusBlind_readOf r size lane
  | write r size lane data =>
    rw [funext (exec_writeOf r size lane data)]
    exact operationBusBlind_busWrite (busBlind_writeRule r _)
  | wrInvalid size offset data =>
    rw [funext (exec_wrInvalid size offset data)]
    exact operationBusBlind_busWrite fun _ _ _ => rfl
  | postload => exact operationBusBlind_postload
  | rdInvalid | gate | rx | rstEnter | rstHold | rstExit =>
    exact operationBusBlind_of_next (fun _ => rfl) fun _ _ => rfl

/-- Settles O47: a step runs an operation or is idle, every operation keeps the parameters, and none looks at those of
the bus. -/
theorem parametersAreNeverWrittenAndTheBusOnesNeverRead :
    Obligations.ParametersAreNeverWrittenAndTheBusOnesNeverRead := by
  refine ⟨fun s t => step_cfg, fun i s t base order unaligned h => ?_⟩
  have hkept := exec_restKept h
  have hbus := exec_operationBusBlind i
    { s.cfg with base := base, byteOrder := order, admitsUnaligned := unaligned } s t h
  refine ⟨hkept, ?_⟩
  rw [onBus, onBus, hkept.1] at hbus
  exact hbus

end Sys2Proof.Machine

/-! The two halves of the codec's round trip (30_encoding.md R81, R85): the pair of an operation decodes to it, and an
accepted pair is the pair of what it decodes to. -/

namespace Sys2Proof.Machine

@[simp] theorem wellFormed_readOf (r : Reg) (size : AccessSize) (lane : Lane) :
    (readOf r size lane).wellFormed = true := by
  cases r <;> rfl

@[simp] theorem wellFormed_writeOf (r : Reg) (size : AccessSize) (lane : Lane) (data : Word) :
    (writeOf r size lane data).wellFormed = dataFits size data := by
  cases r <;> rfl

@[simp] theorem encode_readOf (r : Reg) (size : AccessSize) (lane : Lane) :
    encode (readOf r size lane) = encodeRead size (regOffset r lane) := by
  cases r <;> rfl

@[simp] theorem encode_writeOf (r : Reg) (size : AccessSize) (lane : Lane) (data : Word) :
    encode (writeOf r size lane data) = encodeWrite size (regOffset r lane) data := by
  cases r <;> rfl

/-- The offset of an access to a register selects that register (R62). -/
theorem regOffset_index (r : Reg) (lane : Lane) : (regOffset r lane).toNat / 4 = regIndex r := by
  have hlane := lane.isLt
  rw [regOffset_toNat]
  omega

/-- The offset of an access to a register holds its lane (R62). -/
theorem regOffset_lane (r : Reg) (lane : Lane) : (regOffset r lane).extractLsb' 0 2 = lane := by
  apply BitVec.eq_of_toNat_eq
  rw [lane_eq_ofNat, BitVec.toNat_ofNat, regOffset_toNat]
  omega

theorem readAt_regOffset (r : Reg) (size : AccessSize) (lane : Lane) :
    readAt (regOffset r lane) size = readOf r size lane := by
  rw [readAt_valid r _ size (regOffset_index r lane), regOffset_lane]

theorem writeAt_regOffset (r : Reg) (size : AccessSize) (lane : Lane) (data : Word) :
    writeAt (regOffset r lane) size data = writeOf r size lane data := by
  rw [writeAt_valid r _ size data (regOffset_index r lane), regOffset_lane]

theorem offsetInvalid_iff (offset : Offset) : offsetInvalid offset = true ↔ 20 < offset.toNat / 4 :=
  decide_eq_true_iff

/-- A delivery's pair decodes to that delivery (R85). -/
theorem decode_encode_rx (byte : Byte) : decode (encode (.rx byte)).1 (encode (.rx byte)).2 = .ok (.rx byte) := by
  have hword : (encode (.rx byte)).1 = 0x60000000#32 := rfl
  have hhigh : (byte.setWidth 32).extractLsb' 8 24 = 0#24 := by
    apply BitVec.eq_of_toNat_eq
    have hbyte := byte.isLt
    simp only [BitVec.extractLsb'_toNat, BitVec.toNat_setWidth, Nat.shiftRight_eq_div_pow, BitVec.toNat_ofNat]
    omega
  have hlow : (byte.setWidth 32).extractLsb' 0 8 = byte := by
    apply BitVec.eq_of_toNat_eq
    have hbyte := byte.isLt
    simp only [BitVec.extractLsb'_toNat, BitVec.toNat_setWidth, Nat.shiftRight_zero]
    omega
  rw [hword]
  simp [decode, encode, hhigh, hlow]

/-- Settles O1, by the shape of the operation: a bus operation is the one its offset spells, and the others have one
pair for each byte or a single pair. -/
theorem encodedOperationDecodesToItself : Obligations.EncodedOperationDecodesToItself := by
  intro i
  induction i using instr_shapes with
  | read r size lane =>
    intro _
    rw [encode_readOf, decode_encodeRead, readAt_regOffset]
  | write r size lane data =>
    intro hwf
    rw [wellFormed_writeOf] at hwf
    rw [encode_writeOf, decode_encodeWrite size _ data hwf, writeAt_regOffset]
  | rdInvalid size offset =>
    intro hwf
    have hinv : 20 < offset.toNat / 4 := (offsetInvalid_iff offset).1 hwf
    exact (decode_encodeRead size offset).trans (congrArg _ (readAt_invalid offset size hinv))
  | wrInvalid size offset data =>
    intro hwf
    obtain ⟨hfits, hoffset⟩ := Bool.and_eq_true_iff.1 hwf
    have hinv : 20 < offset.toNat / 4 := (offsetInvalid_iff offset).1 hoffset
    exact (decode_encodeWrite size offset data hfits).trans (congrArg _ (writeAt_invalid offset size data hinv))
  | rx byte => exact fun _ => decode_encode_rx byte
  | gate | rstEnter | rstHold | rstExit | postload => exact fun _ => rfl

/-! The fields of a word, and the operation of each kind. -/

/-- A field of a word, taken by division (R81). -/
theorem field_toNat (w : Word) (low width : Nat) :
    (w.extractLsb' low width).toNat = w.toNat / 2 ^ low % 2 ^ width := by
  rw [BitVec.extractLsb'_toNat, Nat.shiftRight_eq_div_pow]

theorem field_eq_zero_iff (w : Word) (low width : Nat) :
    w.extractLsb' low width = 0#width ↔ w.toNat / 2 ^ low % 2 ^ width = 0 := by
  rw [← BitVec.toNat_inj, field_toNat, BitVec.toNat_ofNat, Nat.zero_mod]

theorem dataFits_iff (size : AccessSize) (data : Word) :
    dataFits size data = true ↔ data.toNat / 2 ^ (8 * size.bytes) = 0 := by
  rw [dataFits, beq_iff_eq, ← BitVec.toNat_inj, BitVec.toNat_ushiftRight, Nat.shiftRight_eq_div_pow]
  rfl

/-- A word whose reserved fields are 0 is made up of its kind, size and offset (R81). -/
theorem operationWord_of_fields {w : Word} (hhigh : w.extractLsb' 26 3 = 0#3) (hlow : w.extractLsb' 12 12 = 0#12) :
    operationWord (w.extractLsb' 29 3) (w.extractLsb' 24 2) (w.extractLsb' 0 12) = w := by
  have hw := w.isLt
  rw [field_eq_zero_iff] at hhigh hlow
  apply BitVec.eq_of_toNat_eq
  rw [operationWord_toNat, field_toNat, field_toNat, field_toNat]
  omega

/-- A word whose `W[25:0]` is 0 as well is its kind alone (R85). -/
theorem operationWord_of_kind {w : Word} (hhigh : w.extractLsb' 26 3 = 0#3) (hoperands : w.extractLsb' 0 26 = 0#26) :
    operationWord (w.extractLsb' 29 3) 0#2 0#12 = w := by
  have hw := w.isLt
  rw [field_eq_zero_iff] at hhigh hoperands
  apply BitVec.eq_of_toNat_eq
  rw [operationWord_toNat, field_toNat, BitVec.toNat_ofNat, BitVec.toNat_ofNat]
  omega

/-- The operation of each kind that takes no operand: 2, 4, 5, 6 and 7 (R85). -/
def controlOfKind : Nat → Instr
  | 2 => .gate
  | 4 => .rstEnter
  | 5 => .rstHold
  | 6 => .rstExit
  | _ => .postload

theorem wellFormed_controlOfKind (k : Nat) : (controlOfKind k).wellFormed = true := by
  unfold controlOfKind
  split <;> rfl

theorem encode_controlOfKind (k : BitVec 3) (hk : 2 ≤ k.toNat) (hrx : k.toNat ≠ 3) :
    encode (controlOfKind k.toNat) = (operationWord k 0#2 0#12, 0#32) := by
  revert k
  decide

/-! `decode` one branch at a time: the word's reserved fields, then its kind (R85). -/

theorem decode_of_reserved {w : Word} (d : Word) (h : w.extractLsb' 26 3 ≠ 0#3 ∨ w.extractLsb' 12 12 ≠ 0#12) :
    decode w d = .error .reservedField := by
  rw [decode, if_pos h]

section
variable {w : Word} (d : Word) (hhigh : w.extractLsb' 26 3 = 0#3) (hlow : w.extractLsb' 12 12 = 0#12)
include hhigh hlow

theorem decode_of_kind_read (hkind : (w.extractLsb' 29 3).toNat = 0) :
    decode w d =
      if d ≠ 0#32 then .error .readWithData
      else .ok (readAt (w.extractLsb' 0 12) (sizeOfField (w.extractLsb' 24 2))) := by
  rw [decode, if_neg (by simp [hhigh, hlow]), hkind]
  rfl

theorem decode_of_kind_write (hkind : (w.extractLsb' 29 3).toNat = 1) :
    decode w d =
      if dataFits (sizeOfField (w.extractLsb' 24 2)) d = false then .error .dataAboveSize
      else .ok (writeAt (w.extractLsb' 0 12) (sizeOfField (w.extractLsb' 24 2)) d) := by
  rw [decode, if_neg (by simp [hhigh, hlow]), hkind]
  rfl

theorem decode_of_kind_rx (hkind : (w.extractLsb' 29 3).toNat = 3) :
    decode w d =
      if w.extractLsb' 0 26 ≠ 0#26 then .error .operandField
      else if d.extractLsb' 8 24 ≠ 0#24 then .error .deliveryAboveByte
      else .ok (.rx (d.extractLsb' 0 8)) := by
  rw [decode, if_neg (by simp [hhigh, hlow]), hkind]
  rfl

theorem decode_of_kind_control (hkind : 2 ≤ (w.extractLsb' 29 3).toNat) (hrx : (w.extractLsb' 29 3).toNat ≠ 3) :
    decode w d = decodeControl (controlOfKind (w.extractLsb' 29 3).toNat) w d := by
  rw [decode, if_neg (by simp [hhigh, hlow])]
  generalize (w.extractLsb' 29 3).toNat = k at hkind hrx
  match k, hkind, hrx with
  | 2, _, _ | 4, _, _ | 5, _, _ | 6, _, _ | _ + 7, _, _ => rfl

end

/-- The reserved fields of a word: one is not 0, or both are 0 (R81). -/
theorem reserved_cases (w : Word) :
    (w.extractLsb' 26 3 ≠ 0#3 ∨ w.extractLsb' 12 12 ≠ 0#12) ∨
    (w.extractLsb' 26 3 = 0#3 ∧ w.extractLsb' 12 12 = 0#12) := by
  tauto

/-- The kinds by what they take: an offset, an offset and data, a byte, or nothing (R81, R82). -/
theorem kind_cases (k : Nat) : k = 0 ∨ k = 1 ∨ k = 3 ∨ 2 ≤ k ∧ k ≠ 3 := by
  omega

/-! What `decode` accepts: the operation of each kind is well-formed and its pair is the one decoded. -/

theorem wellFormed_readAt (offset : Offset) (size : AccessSize) : (readAt offset size).wellFormed = true := by
  rcases offset_cases offset with ⟨r, hr⟩ | hinv
  · rw [readAt_valid r offset size hr, wellFormed_readOf]
  · rw [readAt_invalid offset size hinv]
    exact (offsetInvalid_iff offset).2 hinv

theorem wellFormed_writeAt (offset : Offset) (size : AccessSize) (data : Word) (hfits : dataFits size data = true) :
    (writeAt offset size data).wellFormed = true := by
  rcases offset_cases offset with ⟨r, hr⟩ | hinv
  · rw [writeAt_valid r offset size data hr, wellFormed_writeOf, hfits]
  · rw [writeAt_invalid offset size data hinv]
    exact Bool.and_eq_true_iff.2 ⟨hfits, (offsetInvalid_iff offset).2 hinv⟩

theorem encode_readAt (offset : Offset) (size : AccessSize) : encode (readAt offset size) = encodeRead size offset := by
  rcases offset_cases offset with ⟨r, hr⟩ | hinv
  · rw [readAt_valid r offset size hr, encode_readOf, regOffset_of_index r offset hr]
  · rw [readAt_invalid offset size hinv]
    rfl

theorem encode_writeAt (offset : Offset) (size : AccessSize) (data : Word) :
    encode (writeAt offset size data) = encodeWrite size offset data := by
  rcases offset_cases offset with ⟨r, hr⟩ | hinv
  · rw [writeAt_valid r offset size data hr, encode_writeOf, regOffset_of_index r offset hr]
  · rw [writeAt_invalid offset size data hinv]
    rfl

/-- A data word with nothing above its low byte is that byte (R81). -/
theorem setWidth_byte_of_high {d : Word} (hhigh : d.extractLsb' 8 24 = 0#24) :
    (d.extractLsb' 0 8).setWidth 32 = d := by
  have hd := d.isLt
  rw [field_eq_zero_iff] at hhigh
  apply BitVec.eq_of_toNat_eq
  rw [BitVec.toNat_setWidth, field_toNat]
  omega

theorem decodeControl_eq_ok_iff {i j : Instr} {w d : Word} :
    decodeControl i w d = .ok j ↔ w.extractLsb' 0 26 = 0#26 ∧ d = 0#32 ∧ i = j := by
  unfold decodeControl
  split
  case isTrue hoperands => simp [hoperands]
  case isFalse hoperands =>
    split
    case isTrue hd => simp [hd]
    case isFalse hd => simp [not_not.1 hoperands, not_not.1 hd]

/-- Settles O2, by the branches of the decoder: each checks that the bits the encoder leaves 0 are 0. -/
theorem acceptedPairIsTheEncodingOfItsOperation : Obligations.AcceptedPairIsTheEncodingOfItsOperation := by
  intro w d i h
  rcases reserved_cases w with hres | ⟨hhigh, hlow⟩
  · cases (decode_of_reserved d hres).symm.trans h
  have hword := operationWord_of_fields hhigh hlow
  rcases kind_cases (w.extractLsb' 29 3).toNat with hkind | hkind | hkind | ⟨hkind, hrx⟩
  · rw [decode_of_kind_read d hhigh hlow hkind] at h
    split at h
    · cases h
    next hd =>
      cases h
      rw [BitVec.eq_of_toNat_eq (y := 0#3) hkind] at hword
      exact ⟨wellFormed_readAt _ _, by
        rw [encode_readAt, encodeRead, sizeField_sizeOfField, hword, not_not.1 hd]⟩
  · rw [decode_of_kind_write d hhigh hlow hkind] at h
    split at h
    · cases h
    next hfits =>
      cases h
      rw [BitVec.eq_of_toNat_eq (y := 1#3) hkind] at hword
      exact ⟨wellFormed_writeAt _ _ _ (by simpa using hfits), by
        rw [encode_writeAt, encodeWrite, sizeField_sizeOfField, hword]⟩
  · rw [decode_of_kind_rx d hhigh hlow hkind] at h
    split at h
    · cases h
    next hoperands =>
      split at h
      · cases h
      next hbyte =>
        cases h
        have hword := operationWord_of_kind hhigh (not_not.1 hoperands)
        rw [BitVec.eq_of_toNat_eq (y := 3#3) hkind] at hword
        exact ⟨rfl, by rw [encode, hword, setWidth_byte_of_high (not_not.1 hbyte)]⟩
  · rw [decode_of_kind_control d hhigh hlow hkind hrx] at h
    obtain ⟨hoperands, rfl, rfl⟩ := decodeControl_eq_ok_iff.1 h
    exact ⟨wellFormed_controlOfKind _, by
      rw [encode_controlOfKind _ hkind hrx, operationWord_of_kind hhigh hoperands]⟩

/-! What `decode` refuses, one kind at a time (R85, R87). -/

/-- The decoder's answer is a refusal: the pair is reserved (R87). -/
def Refuses (r : Except ReservedForm Instr) : Prop :=
  ∃ form, r = .error form

theorem refuses_error (form : ReservedForm) : Refuses (.error form) :=
  ⟨form, rfl⟩

theorem not_refuses_ok (i : Instr) : ¬ Refuses (.ok i) :=
  fun ⟨_, h⟩ => nomatch h

/-- One check of R85: the pair is refused here or by what follows. -/
theorem refuses_check (c : Prop) [Decidable c] (form : ReservedForm) (r : Except ReservedForm Instr) :
    Refuses (if c then .error form else r) ↔ c ∨ Refuses r := by
  by_cases hc : c
  · simp [hc, refuses_error]
  · simp [hc]

theorem refuses_decodeControl (i : Instr) (w d : Word) :
    Refuses (decodeControl i w d) ↔ w.extractLsb' 0 26 ≠ 0#26 ∨ d ≠ 0#32 := by
  rw [decodeControl, refuses_check, refuses_check]
  simp only [not_refuses_ok, or_false]

/-- R85's refusals, in the fields the decoder reads. -/
theorem decode_refuses_iff (w d : Word) :
    Refuses (decode w d) ↔
      (w.extractLsb' 26 3 ≠ 0#3 ∨ w.extractLsb' 12 12 ≠ 0#12 ∨
       ((w.extractLsb' 29 3).toNat = 0 ∧ d ≠ 0#32) ∨
       ((w.extractLsb' 29 3).toNat = 1 ∧ dataFits (sizeOfField (w.extractLsb' 24 2)) d ≠ true) ∨
       (2 ≤ (w.extractLsb' 29 3).toNat ∧ w.extractLsb' 0 26 ≠ 0#26) ∨
       ((w.extractLsb' 29 3).toNat = 3 ∧ d.extractLsb' 8 24 ≠ 0#24) ∨
       (2 ≤ (w.extractLsb' 29 3).toNat ∧ (w.extractLsb' 29 3).toNat ≠ 3 ∧ d ≠ 0#32)) := by
  rcases reserved_cases w with hres | ⟨hhigh, hlow⟩
  · rw [decode_of_reserved d hres, ← or_assoc]
    exact iff_of_true (refuses_error _) (.inl hres)
  rcases kind_cases (w.extractLsb' 29 3).toNat with hkind | hkind | hkind | ⟨hkind, hrx⟩
  · rw [decode_of_kind_read d hhigh hlow hkind, refuses_check]
    simp [hhigh, hlow, hkind, not_refuses_ok]
  · rw [decode_of_kind_write d hhigh hlow hkind, refuses_check]
    simp [hhigh, hlow, hkind, not_refuses_ok]
  · rw [decode_of_kind_rx d hhigh hlow hkind, refuses_check, refuses_check]
    simp [hhigh, hlow, hkind, not_refuses_ok]
  · rw [decode_of_kind_control d hhigh hlow hkind hrx, refuses_decodeControl]
    have hread : (w.extractLsb' 29 3).toNat ≠ 0 := by omega
    have hwrite : (w.extractLsb' 29 3).toNat ≠ 1 := by omega
    simp only [hhigh, hlow, hkind, hrx, hread, hwrite, ne_eq, not_true, false_and, true_and, false_or, not_false_iff]

theorem word_eq_zero_iff (d : Word) : d = 0#32 ↔ d.toNat = 0 :=
  BitVec.toNat_inj.symm

/-- Settles O3: the refusals in the decoder's own fields, each field then taken by division. -/
theorem decoderRefusesExactlyTheReservedPairs : Obligations.DecoderRefusesExactlyTheReservedPairs := by
  intro w d
  have hdata : d.toNat / 2 ^ 8 % 2 ^ 24 = d.toNat / 2 ^ 8 := by
    have hd := d.isLt
    omega
  change Refuses (decode w d) ↔ _
  rw [decode_refuses_iff]
  simp only [kindField_toNat, dataFits_iff, sizeOfField_word_bytes, field_eq_zero_iff, word_eq_zero_iff, ne_eq, hdata,
    pow_zero, Nat.div_one]
  rfl

/-! Words written out, and the step of a call whose pair is reserved. -/

theorem decode_of_encode_eq {i : Instr} {w d : Word} (hwf : i.wellFormed = true) (h : encode i = (w, d)) :
    decode w d = .ok i := by
  have hdecode := encodedOperationDecodesToItself i hwf
  rwa [h] at hdecode

/-- Settles O5: each pair is what the encoder writes for its operation. -/
theorem sampleWordsDecodeToTheirOperations : Obligations.SampleWordsDecodeToTheirOperations :=
  ⟨decode_of_encode_eq rfl rfl, decode_of_encode_eq rfl rfl, decode_of_encode_eq rfl rfl, decode_of_encode_eq rfl rfl,
    decode_of_encode_eq rfl rfl, decode_of_encode_eq rfl rfl, decode_of_encode_eq rfl rfl⟩

theorem nextOperation_of_reserved {s : State} {c : Call} {rest : List Call} {form : ReservedForm}
    (hcalls : s.calls = c :: rest) (hdecode : decode c.w c.d = .error form) :
    nextOperation s = some (.error (.reservedEncoding form)) := by
  simp [nextOperation, hcalls, hdecode]

theorem nextOperation_of_idle {s : State} (hcalls : s.calls = []) : nextOperation s = none := by
  simp [nextOperation, hcalls]

/-- Settles O9: a reserved pair is no operation, and with no call there is none; `step` answers for both. -/
theorem reservedPairHasNoStep : Obligations.ReservedPairHasNoStep := by
  refine ⟨fun s c rest form hcalls hdecode => ?_, fun s hcalls => ?_⟩
  · rw [step, nextOperation_of_reserved hcalls hdecode]
  · rw [step, nextOperation_of_idle hcalls]

end Sys2Proof.Machine

/-! Bus writes (40_bus_write.md R100 to R123): which registers a rule writes and what it emits, said once, and from it
what each write does. -/

namespace Sys2Proof.Machine

/-- The registers a write may change: its own, the status LINCR1 and BDRL set, and no other (R101, R115). -/
def writtenRegs : Reg → List Reg
  | .lincr1 => [.lincr1, .linsr]
  | .bdrl => [.bdrl, .uartsr]
  | r => [r]

/-- What a write emits before the line is re-driven (R106, R115, R123). -/
def writeEvents (r : Reg) (offset : Offset) (v : Word) (s : State) : List Event :=
  match r with
  | .lincr1 | .linier | .uartcr => []
  | .uartsr =>
    if (BitIn s.cfg.usrRbf (reg s .uartsr) ∧ BitIn s.cfg.usrRbf (v &&& 0x0000FFFF#32)) ∨
      (BitIn s.cfg.usrRmb (reg s .uartsr) ∧ BitIn s.cfg.usrRmb (v &&& 0x0000FFFF#32)) then [.resume] else []
  | .bdrl => [.txByte (charByte v)]
  | _ => [.diag .unimplementedRegister offset]

/-- The registers without a write rule of their own (R123). -/
abbrev Inert (r : Reg) : Prop :=
  r ∉ [Reg.lincr1, .linier, .uartcr, .uartsr, .bdrl]

theorem writeRule_of_inert {r : Reg} (hr : Inert r) (offset : Offset) : writeRule r offset = storeInert r offset := by
  cases r
  case lincr1 | linier | uartcr | uartsr | bdrl => exact absurd hr (by decide)
  all_goals rfl

theorem writtenRegs_of_inert {r : Reg} (hr : Inert r) : writtenRegs r = [r] := by
  cases r
  case lincr1 | bdrl => exact absurd hr (by decide)
  all_goals rfl

theorem writeEvents_of_inert {r : Reg} (hr : Inert r) (offset : Offset) (v : Word) (s : State) :
    writeEvents r offset v s = [.diag .unimplementedRegister offset] := by
  cases r
  case lincr1 | linier | uartcr | uartsr | bdrl => exact absurd hr (by decide)
  all_goals rfl

theorem storeInert_reg (r : Reg) (offset : Offset) (v : Word) (s : State) (q : Reg) :
    reg (storeInert r offset v s) q = if q = r then v else reg s q :=
  (storeInert_spec r offset v s).1 q

theorem writeRule_events (r : Reg) (offset : Offset) (v : Word) (s : State) :
    (writeRule r offset v s).trace = s.trace ++ writeEvents r offset v s := by
  rw [writeRule_trace]
  cases r <;> rfl

/-! UARTCR only gains bits (R105). -/

/-- The bits a write of UARTCR ORs in, by the two modes. -/
def uartcrGain (v : Word) (s : State) : Word :=
  if InitMode s then
    if UartModeOn s ∨ BitIn s.cfg.ucrUart v then v else 0#32
  else if UartModeOn s then v &&& 0x0070FC30#32
  else 0#32

/-- Masking with the tested bits keeps the test. -/
theorem bitIn_and_self (m v : Word) : BitIn m (v &&& m) ↔ BitIn m v := by
  rw [BitIn, BitIn, BitVec.and_assoc, BitVec.and_self]

/-- The two ORs of the INIT-mode case are one: the first adds a part of what the second adds, or nothing (R105). -/
theorem writeUartcr_reg_uartcr (v : Word) (s : State) :
    reg (writeUartcr v s) .uartcr = reg s .uartcr ||| uartcrGain v s := by
  have hpart : (v &&& s.cfg.ucrUart) ||| v = v := by
    ext
    simp +contextual
  rw [writeUartcr_reg, if_pos rfl, uartcrGain]
  simp only [bitIn_or, bitIn_and_self]
  by_cases hinit : InitMode s
  · by_cases huart : UartModeOn s ∨ BitIn s.cfg.ucrUart v
    · rw [if_pos hinit, if_pos huart, if_pos hinit, if_pos huart, BitVec.or_assoc, hpart]
    · have hzero : v &&& s.cfg.ucrUart = 0#32 := not_not.1 fun h => huart (.inr h)
      rw [if_pos hinit, if_neg huart, if_pos hinit, if_neg huart, hzero]
  · by_cases huart : UartModeOn s
    · rw [if_neg hinit, if_pos huart, if_neg hinit, if_pos huart]
    · rw [if_neg hinit, if_neg huart, if_neg hinit, if_neg huart, BitVec.or_zero]

/-! What every rule leaves alone, and what it looks at. -/

theorem writeRule_regsKept (r : Reg) (offset : Offset) (v : Word) (s : State) :
    RegsKept (writtenRegs r) s (writeRule r offset v s) := by
  intro q hq
  by_cases hr : Inert r
  · rw [writtenRegs_of_inert hr, List.mem_singleton] at hq
    rw [writeRule_of_inert hr, storeInert_reg, if_neg hq]
  · cases r
    case lincr1 =>
      have hq' : q ≠ .lincr1 ∧ q ≠ .linsr := by simpa [writtenRegs] using hq
      simp [writeRule, writeLincr1_reg, hq']
    case bdrl =>
      have hq' : q ≠ .bdrl ∧ q ≠ .uartsr := by simpa [writtenRegs] using hq
      simp [writeRule, writeBdrl_reg, hq']
    case linier => exact (writeLinier_reg v s q).trans (if_neg (List.mem_singleton.not.1 hq))
    case uartcr => exact (writeUartcr_reg v s q).trans (if_neg (List.mem_singleton.not.1 hq))
    case uartsr => exact (writeUartsr_reg v s q).trans (if_neg (List.mem_singleton.not.1 hq))
    all_goals exact absurd (by decide) hr

/-- What a rule leaves in the registers depends on the parameters and the registers only. -/
theorem writeRule_reg_congr (r : Reg) (offset : Offset) (v : Word) {s t : State} (hcfg : t.cfg = s.cfg)
    (hreg : ∀ q, reg t q = reg s q) (q : Reg) :
    reg (writeRule r offset v t) q = reg (writeRule r offset v s) q := by
  by_cases hr : Inert r
  · rw [writeRule_of_inert hr, storeInert_reg, storeInert_reg, hreg]
  · cases r
    case lincr1 => simp only [writeRule, writeLincr1_reg, hcfg, hreg]
    case linier => simp only [writeRule, writeLinier_reg, hreg]
    case uartcr => simp only [writeRule, writeUartcr_reg, InitMode, UartModeOn, hcfg, hreg]
    case uartsr => simp only [writeRule, writeUartsr_reg, hreg]
    case bdrl => simp only [writeRule, writeBdrl_reg, hcfg, hreg]
    all_goals exact absurd (by decide) hr

/-- Everything a write of a register does: its rule's registers and events, then the line, and no answer (R100). -/
structure WriteEffect (r : Reg) (offset : Offset) (v : Word) (s t : State) : Prop where
  reg_eq : ∀ q, reg t q = reg (writeRule r offset v s) q
  regsKept : RegsKept (writtenRegs r) s t
  redriven : Redriven (writeEvents r offset v s) s t
  answer : t.answer = .nothing
  restKept : RestKept s t

theorem writeEffect_of_rule (r : Reg) (offset : Offset) (v : Word) (s : State) :
    WriteEffect r offset v s (updateIRQ (writeRule r offset v (answerWith s .nothing))) where
  reg_eq := writeRule_reg_congr r offset v rfl fun _ => rfl
  regsKept := writeRule_regsKept r offset v (answerWith s .nothing)
  redriven := by
    refine ⟨?_, updateIRQ_lineCurrent _⟩
    rw [updateIRQ_trace, updateIRQ_irq, writeRule_events]
    rfl
  answer := by
    obtain ⟨-, -, -, hanswer, -⟩ := writeRule_kept r offset v (answerWith s .nothing)
    exact hanswer
  restKept := writeRule_restKept r offset v (answerWith s .nothing)

/-- Every write of a register completes, with that effect. -/
theorem exec_writeOf_effect (r : Reg) (size : AccessSize) (lane : Lane) (data : Word) (s : State) :
    ∃ t, exec (writeOf r size lane data) s = .next t ∧
      WriteEffect r (regOffset r lane) (lowPart size data) s t := by
  have h := exec_writeAt_valid (regOffset_index r lane) size data s
  rw [writeAt_regOffset] at h
  exact ⟨_, h, writeEffect_of_rule r _ _ s⟩

/-! What the writes with a rule of their own leave in their registers. -/

section
variable {offset : Offset} {v : Word} {s t : State}

theorem WriteEffect.reg_lincr1 (h : WriteEffect .lincr1 offset v s t) : reg t .lincr1 = v &&& 0x0001DF27#32 :=
  (h.reg_eq .lincr1).trans (writeLincr1_reg v s .lincr1)

/-- The INIT-state flag follows the INIT bit as stored (R101). -/
theorem WriteEffect.reg_linsr_of_lincr1 (h : WriteEffect .lincr1 offset v s t) :
    reg t .linsr =
      if BitIn s.cfg.cr1Init (reg t .lincr1) then reg s .linsr ||| s.cfg.lsrInit else reg s .linsr := by
  rw [h.reg_lincr1]
  simpa using (h.reg_eq .linsr).trans (writeLincr1_reg v s .linsr)

theorem WriteEffect.reg_linier (h : WriteEffect .linier offset v s t) : reg t .linier = v &&& 0x0000FFFF#32 :=
  (h.reg_eq .linier).trans (writeLinier_reg v s .linier)

theorem WriteEffect.reg_uartcr (h : WriteEffect .uartcr offset v s t) :
    reg t .uartcr = reg s .uartcr ||| uartcrGain v s :=
  (h.reg_eq .uartcr).trans (writeUartcr_reg_uartcr v s)

theorem WriteEffect.reg_uartsr (h : WriteEffect .uartsr offset v s t) :
    reg t .uartsr = reg s .uartsr &&& ~~~(v &&& 0x0000FFFF#32) :=
  (h.reg_eq .uartsr).trans (writeUartsr_reg v s .uartsr)

theorem WriteEffect.reg_bdrl (h : WriteEffect .bdrl offset v s t) : reg t .bdrl = v :=
  (h.reg_eq .bdrl).trans (writeBdrl_reg v s .bdrl)

theorem WriteEffect.reg_uartsr_of_bdrl (h : WriteEffect .bdrl offset v s t) :
    reg t .uartsr = reg s .uartsr ||| s.cfg.usrTbe :=
  (h.reg_eq .uartsr).trans (writeBdrl_reg v s .uartsr)

theorem WriteEffect.reg_of_inert {r : Reg} (hr : Inert r) (h : WriteEffect r offset v s t) : reg t r = v := by
  rw [h.reg_eq, writeRule_of_inert hr, storeInert_reg, if_pos rfl]

end

/-! The words of the writes (30_encoding.md R86). -/

theorem encodeWrite_kind (size : AccessSize) (offset : Offset) (data : Word) :
    (encodeWrite size offset data).1.toNat / 2 ^ 29 = 1 := by
  rw [← kindField_toNat, encodeWrite, operationWord_kind]
  rfl

theorem encodeWrite_offset (size : AccessSize) (offset : Offset) (data : Word) :
    (encodeWrite size offset data).1.toNat % 4096 = offset.toNat := by
  rw [← offsetField_toNat, encodeWrite, operationWord_offset]

theorem spelledAt_writeOf (r : Reg) (size : AccessSize) (lane : Lane) (data : Word) :
    SpelledAt 1 (4 * regIndex r) (writeOf r size lane data) := by
  have hlane := lane.isLt
  rw [SpelledAt, encode_writeOf, encodeWrite_kind, encodeWrite_offset, regOffset_toNat]
  omega

/-- Settles O11: the two registers as the effect gives them, and its frame. -/
theorem writeControl1StoresMaskedValueAndSetsInitFlag : Obligations.WriteControl1StoresMaskedValueAndSetsInitFlag := by
  intro size lane data s
  obtain ⟨t, ht, h⟩ := exec_writeOf_effect .lincr1 size lane data s
  exact ⟨spelledAt_writeOf .lincr1 size lane data, t, ht, h.reg_lincr1,
    fun hbit => h.reg_linsr_of_lincr1.trans (if_pos hbit), fun hbit => h.reg_linsr_of_lincr1.trans (if_neg hbit),
    h.regsKept, h.redriven, h.answer, h.restKept⟩

/-- Settles O12: the effect of LINIER's write; re-driven, the line is current for the new enables. -/
theorem writeInterruptEnableStoresLow16Bits : Obligations.WriteInterruptEnableStoresLow16Bits := by
  intro size lane data s
  obtain ⟨t, ht, h⟩ := exec_writeOf_effect .linier size lane data s
  exact ⟨spelledAt_writeOf .linier size lane data, t, ht, h.reg_linier,
    h.regsKept, h.redriven, h.answer, h.restKept⟩

/-- Settles O13: the four cases of the statement are those of `uartcrGain`. -/
theorem writeUartControlIsModeGatedAndAccumulates : Obligations.WriteUartControlIsModeGatedAndAccumulates := by
  intro size lane data s
  obtain ⟨t, ht, h⟩ := exec_writeOf_effect .uartcr size lane data s
  refine ⟨spelledAt_writeOf .uartcr size lane data, t, ht, fun hinit huart => ?_, fun hinit huart hbit => ?_,
    fun hinit huart => ?_, fun hinit huart => ?_, h.regsKept, h.redriven, h.answer, h.restKept⟩
  · rw [h.reg_uartcr, uartcrGain, if_pos hinit, if_pos huart]
  · rw [h.reg_uartcr, uartcrGain, if_pos hinit, if_neg (not_or.2 ⟨huart, hbit⟩), BitVec.or_zero]
  · rw [h.reg_uartcr, uartcrGain, if_neg hinit, if_pos huart]
  · rw [h.reg_uartcr, uartcrGain, if_neg hinit, if_neg huart, BitVec.or_zero]

/-- Settles O14: the effect of UARTSR's write, whose events are at most one `Resume`. -/
theorem writeUartStatusClearsOnesAndNotifiesOnce : Obligations.WriteUartStatusClearsOnesAndNotifiesOnce := by
  intro size lane data s
  obtain ⟨t, ht, h⟩ := exec_writeOf_effect .uartsr size lane data s
  exact ⟨spelledAt_writeOf .uartsr size lane data, t, ht, h.reg_uartsr,
    h.regsKept, h.redriven, h.answer, h.restKept⟩

/-- The rows of `inertWrites` are the writes of the inert registers, at four times their index. -/
theorem inertWrites_spec {p : Reg × Nat × (AccessSize → Lane → Word → Instr)} (hp : p ∈ inertWrites) :
    ∃ r, Inert r ∧ p = (r, 4 * regIndex r, writeOf r) := by
  unfold inertWrites at hp
  fin_cases hp <;> exact ⟨_, by decide, rfl⟩

/-- An access's offset is its register's lowest one plus the lane (R62). -/
theorem regOffset_eq_ofNat (r : Reg) (lane : Lane) :
    regOffset r lane = BitVec.ofNat 12 (4 * regIndex r + lane.toNat) := by
  rw [← regOffset_toNat, BitVec.ofNat_toNat, BitVec.setWidth_eq]

/-- Settles O15: each row is the write of an inert register, and those have one rule. -/
theorem inertWriteStoresVerbatimAndReports : Obligations.InertWriteStoresVerbatimAndReports := by
  intro p hp size lane data s
  obtain ⟨r, hr, rfl⟩ := inertWrites_spec hp
  obtain ⟨t, ht, h⟩ := exec_writeOf_effect r size lane data s
  refine ⟨spelledAt_writeOf r size lane data, t, ht, h.reg_of_inert hr, ?_, ?_, h.answer, h.restKept⟩
  · rw [← writtenRegs_of_inert hr]
    exact h.regsKept
  · rw [← regOffset_eq_ofNat, ← writeEvents_of_inert hr _ (lowPart size data) s]
    exact h.redriven

/-- The byte a BDRL write pushes is data[7:0] (R115). -/
theorem charByte_lowPart (size : AccessSize) (data : Word) :
    charByte (lowPart size data) = BitVec.ofNat 8 data.toNat := by
  rw [← charByte_writeValue size, writeValue, lowBytes_eq_lowPart]

/-- Settles O16: the effect of BDRL's write, whose one event is the byte. -/
theorem writeTransmitBufferPushesOneByte : Obligations.WriteTransmitBufferPushesOneByte := by
  intro size lane data s
  obtain ⟨t, ht, h⟩ := exec_writeOf_effect .bdrl size lane data s
  refine ⟨spelledAt_writeOf .bdrl size lane data, t, ht, h.reg_bdrl, h.reg_uartsr_of_bdrl,
    h.regsKept, ?_, h.answer, h.restKept⟩
  rw [← charByte_lowPart size]
  exact h.redriven

/-- A register's write is never the write of an invalid offset (R85). -/
theorem writeOf_ne_wrInvalid (r : Reg) (size size' : AccessSize) (lane : Lane) (data data' : Word) (offset : Offset) :
    writeOf r size lane data ≠ .wrInvalid size' offset data' := by
  cases r <;> exact nofun

theorem writeAt_eq_wrInvalid_iff (offset : Offset) (size : AccessSize) (data : Word) :
    writeAt offset size data = .wrInvalid size offset data ↔ 20 < offset.toNat / 4 := by
  refine ⟨fun h => (offset_cases offset).resolve_left fun ⟨r, hr⟩ => ?_, writeAt_invalid offset size data⟩
  rw [writeAt_valid r offset size data hr] at h
  exact writeOf_ne_wrInvalid _ _ _ _ _ _ _ h

/-- Two states with the same parameters and registers whose lines are both current drive the same level (R200). -/
theorem irq_eq_of_lineCurrent {s t : State} (hs : LineCurrent s) (ht : LineCurrent t) (hcfg : t.cfg = s.cfg)
    (hreg : ∀ q, reg t q = reg s q) : t.irq = s.irq := by
  rw [Bool.eq_iff_iff]
  exact ht.trans ((lineAsserted_congr s t hcfg (hreg _) (hreg _)).trans hs.symm)

/-- Settles O17: the registers are kept, so a line that was current is driven to the level it had. -/
theorem invalidWriteReportsAndChangesNoRegister : Obligations.InvalidWriteReportsAndChangesNoRegister := by
  intro size offset data s
  refine ⟨⟨encodeWrite_kind size offset data, encodeWrite_offset size offset data,
    writeAt_eq_wrInvalid_iff offset size data⟩, ?_⟩
  have hcurrent := updateIRQ_lineCurrent (report (answerWith s .nothing) .invalidRegister offset)
  exact ⟨_, rfl, fun _ _ => rfl, ⟨rfl, hcurrent⟩, fun hs => irq_eq_of_lineCurrent hs hcurrent rfl fun _ => rfl, rfl,
    rfl, rfl, rfl, rfl⟩

/-- Settles O45: three of the registers are constants and the flag reset hold sets is one of the three; no call is
pending. -/
theorem resetRegistersAreLegal : Obligations.ResetRegistersAreLegal := by
  intro cfg
  have hlincr1 : Lincr1Legal (State.resetWith cfg) := (by decide : 0x82#32 &&& ~~~(0x0001DF27#32 ||| 0x80#32) = 0#32)
  have hlinier : LinierLegal (State.resetWith cfg) := (by decide : 0#32 &&& ~~~0x0000FFFF#32 = 0#32)
  have huartsr : (0#32 ||| cfg.usrTbe) &&& ~~~(cfg.usrRbf ||| cfg.usrRmb ||| cfg.usrTbe) = 0#32 := by
    ext
    simp +contextual
  exact ⟨⟨hlincr1, hlinier, huartsr⟩, fun c hc => nomatch hc⟩

end Sys2Proof.Machine

/-! What writes and reads leave of single bits: the ones that stay (10_state.md R50, R51), LINCR1's bit 7
(70_reset_and_hazards.md R240), and the bits the line is computed from (60_exceptions.md R206). -/

namespace Sys2Proof.Machine

theorem writeEffect_of_exec {r : Reg} {size : AccessSize} {lane : Lane} {data : Word} {s t : State}
    (h : exec (writeOf r size lane data) s = .next t) : WriteEffect r (regOffset r lane) (lowPart size data) s t := by
  obtain ⟨t', ht', heffect⟩ := exec_writeOf_effect r size lane data s
  cases ht'.symm.trans h
  exact heffect

/-- A read touches no register but LINCR1 (R141). -/
theorem readTouch_regsKept (r : Reg) (s : State) : RegsKept [.lincr1] s (readTouch r s) := by
  intro q hq
  cases r
  case lincr1 => simp [readTouch, forceLincr1, List.mem_singleton.not.1 hq]
  all_goals rfl

theorem uartcr_notMem_writtenRegs {r : Reg} (hr : r ≠ .uartcr) : Reg.uartcr ∉ writtenRegs r := by
  cases r
  case uartcr => exact absurd rfl hr
  all_goals decide

theorem linsr_notMem_writtenRegs {r : Reg} (hcr1 : r ≠ .lincr1) (hlsr : r ≠ .linsr) :
    Reg.linsr ∉ writtenRegs r := by
  cases r
  case lincr1 => exact absurd rfl hcr1
  case linsr => exact absurd rfl hlsr
  all_goals decide

/-- Every operation but reset enter and post-load ORs something into UARTCR, or nothing (R105). -/
theorem exec_uartcr_gains {i : Instr} {s t : State} (henter : i ≠ .rstEnter) (hload : i ≠ .postload)
    (h : exec i s = .next t) : ∃ gain, reg t .uartcr = reg s .uartcr ||| gain := by
  have kept : reg t .uartcr = reg s .uartcr → ∃ gain, reg t .uartcr = reg s .uartcr ||| gain :=
    fun hkept => ⟨0#32, by rw [hkept, BitVec.or_zero]⟩
  induction i using instr_shapes with
  | read r size lane =>
    rw [exec_readOf] at h
    cases h
    exact kept (readTouch_regsKept r s .uartcr (by decide))
  | write r size lane data =>
    have heffect := writeEffect_of_exec h
    by_cases hr : r = .uartcr
    · subst hr
      exact ⟨_, heffect.reg_uartcr⟩
    · exact kept (heffect.regsKept .uartcr (uartcr_notMem_writtenRegs hr))
  | rstEnter => exact absurd rfl henter
  | postload => exact absurd rfl hload
  | rdInvalid | wrInvalid | gate | rx | rstHold | rstExit =>
    cases h
    exact kept rfl

/-- Settles O40: what is ORed in clears nothing. -/
theorem uartControlNeverLosesASetBit : Obligations.UartControlNeverLosesASetBit := by
  intro i s t henter hload h
  obtain ⟨gain, hgain⟩ := exec_uartcr_gains henter hload h
  rw [hgain]
  ext
  simp +contextual

/-- A LINCR1 write ORs the INIT-state flag into LINSR or leaves it (R101). -/
theorem WriteEffect.bitIn_linsr_of_lincr1 {offset : Offset} {v m : Word} {s t : State}
    (h : WriteEffect .lincr1 offset v s t) (hset : BitIn m (reg s .linsr)) : BitIn m (reg t .linsr) := by
  rw [h.reg_linsr_of_lincr1]
  split
  · exact (bitIn_or _ _ _).2 (.inl hset)
  · exact hset

/-- Settles O41, by the shape of the operation: LINCR1's write can only set the flag, LINSR's own stores its value, and
the others that may stand leave LINSR alone. -/
theorem initStateFlagIsStickyAgainstControl1 : Obligations.InitStateFlagIsStickyAgainstControl1 := by
  intro i s t h hset hclear
  induction i using instr_shapes with
  | read r size lane =>
    rw [exec_readOf] at h
    cases h
    exact absurd (readTouch_regsKept r s .linsr (by decide) ▸ hset) hclear
  | write r size lane data =>
    have heffect := writeEffect_of_exec h
    by_cases hcr1 : r = .lincr1
    · subst hcr1
      exact absurd (heffect.bitIn_linsr_of_lincr1 hset) hclear
    by_cases hlsr : r = .linsr
    · subst hlsr
      exact .inr (.inr ⟨size, lane, data, rfl, heffect.reg_of_inert (by decide) ▸ hclear⟩)
    · exact absurd (heffect.regsKept .linsr (linsr_notMem_writtenRegs hcr1 hlsr) ▸ hset) hclear
  | rstEnter => exact .inl rfl
  | postload => exact .inr (.inl rfl)
  | rdInvalid | wrInvalid | gate | rx | rstHold | rstExit =>
    cases h
    exact absurd hset hclear

/-- `CR1_WMASK` has no bit 7 (R43, R240). -/
theorem not_bitIn_force_masked (v : Word) : ¬ BitIn 0x00000080#32 (v &&& 0x0001DF27#32) := by
  rw [bitIn_and _ _ _ (by decide)]
  exact fun h => absurd h.2 (by decide)

/-- A read of LINCR1 answers the value it leaves in storage, bit 7 set (R141). -/
theorem exec_rdLincr1_forced (size : AccessSize) (lane : Lane) (s : State) :
    ∃ u d, exec (.rdLincr1 size lane) s = .next u ∧ u.answer = .value (reg u .lincr1) d ∧
      BitIn 0x00000080#32 (reg u .lincr1) :=
  ⟨_, _, rfl, rfl, bitIn_self_or _ (reg s .lincr1) (by decide)⟩

/-- Settles O27: the write's mask has no bit 7, the snapshot's first word is LINCR1 as stored, and a read forces the
bit. -/
theorem control1Bit7ReadsOneAlthoughTheWriteStoredZero :
    Obligations.Control1Bit7ReadsOneAlthoughTheWriteStoredZero := by
  intro size size' lane lane' data s
  obtain ⟨t, ht, h⟩ := exec_writeOf_effect .lincr1 size lane data s
  have hclear : ¬ BitIn 0x00000080#32 (reg t .lincr1) := h.reg_lincr1 ▸ not_bitIn_force_masked _
  obtain ⟨u, d, hu, hans, hset⟩ := exec_rdLincr1_forced size' lane' t
  obtain ⟨u', d', hu', hans', hset'⟩ := exec_rdLincr1_forced size' lane' s
  exact ⟨⟨t, u, ht, hu, hclear, ⟨_, _, rfl, hclear⟩, hset, d, hans⟩, u', _, d', hu', hans', hset'⟩

/-! The line after an acknowledgement or a disabling write (R206). -/

theorem bitIn_comm (m v : Word) : BitIn m v ↔ BitIn v m := by
  rw [BitIn, BitIn, BitVec.and_comm]

/-- A one-bit mask in the low 16 bits is among the clear bits of a write exactly when the value has it (R106). -/
theorem bitIn_low16 {m : Word} (v : Word) (hm : isOneBit m = true) (hlow : BitIn 0x0000FFFF#32 m) :
    BitIn m (v &&& 0x0000FFFF#32) ↔ BitIn m v := by
  rw [bitIn_and _ _ _ hm, bitIn_comm m 0x0000FFFF#32]
  exact and_iff_left hlow

/-- What a UARTSR write leaves of such a bit (R106). -/
theorem bitIn_cleared {m : Word} (u v : Word) (hm : isOneBit m = true) (hlow : BitIn 0x0000FFFF#32 m) :
    BitIn m (u &&& ~~~(v &&& 0x0000FFFF#32)) ↔ BitIn m u ∧ ¬ BitIn m v := by
  rw [bitIn_and _ _ _ hm, bitIn_not _ _ hm, bitIn_low16 v hm hlow]

theorem irq_eq_false_of_not_asserted {t : State} (hcurrent : LineCurrent t) (h : ¬ LineAsserted t) : t.irq = false :=
  Bool.eq_false_iff.2 fun hirq => h (hcurrent.1 hirq)

theorem readTouch_irq (r : Reg) (s : State) : (readTouch r s).irq = s.irq := by
  cases r <;> rfl

/-- No read drives the line (R140, R162). -/
theorem exec_readAt_irq (offset : Offset) (size : AccessSize) (s : State) :
    ∃ t, exec (readAt offset size) s = .next t ∧ t.irq = s.irq := by
  rcases offset_cases offset with ⟨r, hr⟩ | hinv
  · exact ⟨_, exec_readAt_valid hr size s, readTouch_irq r s⟩
  · exact ⟨_, exec_readAt_invalid hinv size s, rfl⟩

/-- Settles O39: both sources of the line need a flag and an enable, and the write leaves neither flag, or neither
enable. -/
theorem acknowledgingOrDisablingDeassertsTheLine : Obligations.AcknowledgingOrDisablingDeassertsTheLine := by
  intro size lane data s hok
  obtain ⟨-, -, -, hrbf, -, htbe, htxie, hrxie, -, -, -, -, -, hrbf16, -, htbe16, -, -, -⟩ := params_ok_spec s.cfg hok
  refine ⟨fun hackRbf hackTbe => ?_, fun hrx htx => ?_, fun offset => exec_readAt_irq offset size s⟩
  · obtain ⟨t, ht, h⟩ := exec_writeOf_effect .uartsr size lane data s
    refine ⟨t, ht, irq_eq_false_of_not_asserted h.redriven.2 ?_⟩
    rw [LineAsserted, h.restKept.1, h.reg_uartsr, bitIn_cleared _ _ hrbf hrbf16, bitIn_cleared _ _ htbe htbe16]
    tauto
  · obtain ⟨t, ht, h⟩ := exec_writeOf_effect .linier size lane data s
    refine ⟨t, ht, irq_eq_false_of_not_asserted h.redriven.2 ?_⟩
    rw [LineAsserted, h.restKept.1, h.reg_linier, bitIn_and _ _ _ hrxie, bitIn_and _ _ _ htxie]
    tauto

end Sys2Proof.Machine

/-! The receive flow control (42_transport.md R177): the state is a pair of flags, and each operation's row of the table
says what it does to them. -/

namespace Sys2Proof.Machine

/-- The flow-control state of a pair (RBF, RMB). -/
def flowOf : Bool → Bool → FlowState
  | false, false => .opened
  | true, true => .full
  | true, false => .halfB
  | false, true => .halfM

theorem flowState_eq (s : State) :
    flowState s =
      flowOf (decide (BitIn s.cfg.usrRbf (reg s .uartsr))) (decide (BitIn s.cfg.usrRmb (reg s .uartsr))) := by
  unfold flowState
  by_cases hrbf : BitIn s.cfg.usrRbf (reg s .uartsr) <;> by_cases hrmb : BitIn s.cfg.usrRmb (reg s .uartsr) <;>
    simp [hrbf, hrmb, flowOf]

/-- The table's rows for a UARTSR write: each flag it clears falls, and it notifies when one that was set falls. -/
theorem flowAfterClear_flowOf (rbf rmb clearsRbf clearsRmb : Bool) :
    flowAfterClear (flowOf rbf rmb) clearsRbf clearsRmb =
      (flowOf (rbf && !clearsRbf) (rmb && !clearsRmb),
        if rbf && clearsRbf || rmb && clearsRmb then 1 else 0) := by
  revert rbf rmb clearsRbf clearsRmb
  decide

theorem flowOf_eq_opened_iff (rbf rmb : Bool) : flowOf rbf rmb = .opened ↔ rbf = false ∧ rmb = false := by
  revert rbf rmb
  decide

/-- The open state is the one in which the gate is not closed (R171). -/
theorem flowState_eq_opened_iff (s : State) : flowState s = .opened ↔ ¬ GateClosed s := by
  rw [flowState_eq, flowOf_eq_opened_iff, decide_eq_false_iff_not, decide_eq_false_iff_not, ← not_or]

theorem gateOpen_eq_decide (s : State) : gateOpen s = decide (flowState s = .opened) := by
  rw [Bool.eq_iff_iff, gateOpen_spec, decide_eq_true_iff, flowState_eq_opened_iff]

/-- The flow-control state depends on the two flags only. -/
theorem flowState_congr {s t : State}
    (hrbf : BitIn t.cfg.usrRbf (reg t .uartsr) ↔ BitIn s.cfg.usrRbf (reg s .uartsr))
    (hrmb : BitIn t.cfg.usrRmb (reg t .uartsr) ↔ BitIn s.cfg.usrRmb (reg s .uartsr)) : flowState t = flowState s := by
  simp only [flowState_eq, hrbf, hrmb]

/-- Setting the transmit flag leaves the flow-control state (R115, R232). -/
theorem flowState_of_tbe_set {s t : State} (hok : s.cfg.ok = true) (hcfg : t.cfg = s.cfg)
    (hreg : reg t .uartsr = reg s .uartsr ||| s.cfg.usrTbe) :
    flowState t = flowState s ∧ BitIn s.cfg.usrTbe (reg t .uartsr) := by
  obtain ⟨-, -, -, hrbf, hrmb, htbe, -, -, -, -, -, hrbf_tbe, hrmb_tbe, -⟩ := params_ok_spec s.cfg hok
  refine ⟨flowState_congr ?_ ?_, ?_⟩
  · rw [hcfg, hreg, bitIn_or, or_iff_left (bitIn_other _ _ hrbf htbe hrbf_tbe)]
  · rw [hcfg, hreg, bitIn_or, or_iff_left (bitIn_other _ _ hrmb htbe hrmb_tbe)]
  · rw [hreg]
    exact bitIn_self_or _ _ (isOneBit_ne_zero _ htbe)

/-- A delivery sets both flags (R172). -/
theorem flowState_of_delivery {s t : State} (hok : s.cfg.ok = true) (hcfg : t.cfg = s.cfg)
    (hreg : reg t .uartsr = reg s .uartsr ||| s.cfg.usrRbf ||| s.cfg.usrRmb) : flowState t = .full := by
  obtain ⟨-, -, -, hrbf, hrmb, -⟩ := params_ok_spec s.cfg hok
  have hsetRbf : BitIn s.cfg.usrRbf (reg t .uartsr) := by
    rw [hreg, bitIn_or]
    exact .inl (bitIn_self_or _ _ (isOneBit_ne_zero _ hrbf))
  have hsetRmb : BitIn s.cfg.usrRmb (reg t .uartsr) := by
    rw [hreg]
    exact bitIn_self_or _ _ (isOneBit_ne_zero _ hrmb)
  rw [flowState_eq, hcfg, decide_eq_true hsetRbf, decide_eq_true hsetRmb]
  rfl

/-- Without a flag set, the state is the open one. -/
theorem flowState_of_uartsr_zero {t : State} (h : reg t .uartsr = 0#32) : flowState t = .opened := by
  rw [flowState_eq_opened_iff, GateClosed, h]
  simp [BitIn]

/-- A bus write's `Resume` notifications are those of its rule: the line's level is none. -/
theorem WriteEffect.resumeCount_eq {r : Reg} {offset : Offset} {v : Word} {s t : State}
    (h : WriteEffect r offset v s t) : resumeCount t = resumeCount s + (writeEvents r offset v s).count .resume := by
  rw [resumeCount, h.redriven.1]
  simp [resumeCount]

/-- A UARTSR write's row of the table (R106). -/
theorem WriteEffect.flow_of_uartsr {offset : Offset} {v : Word} {s t : State} (hok : s.cfg.ok = true)
    (h : WriteEffect .uartsr offset v s t) :
    (flowState t, resumeCount t) =
      ((flowAfterClear (flowState s) (decide (BitIn s.cfg.usrRbf v)) (decide (BitIn s.cfg.usrRmb v))).1,
       resumeCount s +
        (flowAfterClear (flowState s) (decide (BitIn s.cfg.usrRbf v)) (decide (BitIn s.cfg.usrRmb v))).2) := by
  obtain ⟨-, -, -, hrbf, hrmb, -, -, -, -, -, -, -, -, hrbf16, hrmb16, -⟩ := params_ok_spec s.cfg hok
  have hflow : flowState t = _ := flowState_eq t
  rw [h.restKept.1, h.reg_uartsr] at hflow
  simp only [bitIn_cleared _ _ hrbf hrbf16, bitIn_cleared _ _ hrmb hrmb16, Bool.decide_and, decide_not] at hflow
  have hresume := h.resumeCount_eq
  simp only [writeEvents, bitIn_low16 _ hrbf hrbf16, bitIn_low16 _ hrmb hrmb16] at hresume
  rw [flowState_eq s, flowAfterClear_flowOf, hflow, hresume]
  simp [apply_ite (List.count Event.resume)]

theorem notPermitted_rx_eq_none_iff (b : Byte) (s : State) :
    notPermitted (.rx b) s = none ↔ flowState s = .opened := by
  rw [flowState_eq_opened_iff, ← gateOpen_spec]
  cases h : gateOpen s <;> simp [notPermitted, h]

/-- Settles O31, row by row of the table. -/
theorem receiveFlowControlFollowsItsTable : Obligations.ReceiveFlowControlFollowsItsTable := by
  intro s hok
  refine ⟨fun size lane data => ?uartsr, fun b => ⟨notPermitted_rx_eq_none_iff b s, ?delivery⟩, ?gate,
    fun size lane => ?bdrm, ?enter, ?exit, fun size lane data => ?bdrl, ?hold⟩
  case uartsr =>
    obtain ⟨t, ht, h⟩ := exec_writeOf_effect .uartsr size lane data s
    exact ⟨t, ht, h.flow_of_uartsr hok⟩
  case delivery => exact ⟨_, rfl, fun _ => flowState_of_delivery hok rfl rfl⟩
  case gate => exact ⟨_, rfl, congrArg Answer.accept (gateOpen_eq_decide s)⟩
  case bdrm => exact ⟨_, rfl, rfl⟩
  case enter => exact ⟨_, rfl, flowState_of_uartsr_zero rfl⟩
  case exit => exact ⟨_, rfl, rfl, by simp [resumeCount]⟩
  case bdrl =>
    obtain ⟨t, ht, h⟩ := exec_writeOf_effect .bdrl size lane data s
    exact ⟨t, ht, flowState_of_tbe_set hok h.restKept.1 h.reg_uartsr_of_bdrl⟩
  case hold => exact ⟨_, rfl, flowState_of_tbe_set hok rfl rfl⟩

end Sys2Proof.Machine

/-! The same write again (20_memory.md R70): the registers a rule leaves are a fixed point of it, and of its events only
the report and the pushed byte come again. -/

namespace Sys2Proof.Machine

/-- What a first write of UARTCR gained, a second gains: INIT mode stays, and UART mode has come by the value itself or
stays (R105). -/
theorem uartcrGain_again {v : Word} {s t : State} (hcfg : t.cfg = s.cfg) (hcr1 : reg t .lincr1 = reg s .lincr1)
    (hucr : reg t .uartcr = reg s .uartcr ||| uartcrGain v s) : uartcrGain v t = uartcrGain v s := by
  have hinit : InitMode t ↔ InitMode s := by rw [InitMode, hcfg, hcr1]
  have huart : UartModeOn t ↔ UartModeOn s ∨ BitIn s.cfg.ucrUart (uartcrGain v s) := by
    rw [UartModeOn, hcfg, hucr, bitIn_or]
  have hzero : ¬ BitIn s.cfg.ucrUart 0#32 := by simp [BitIn]
  unfold uartcrGain at huart ⊢
  by_cases h₁ : InitMode s
  · rw [if_pos h₁] at huart
    rw [if_pos h₁, if_pos (hinit.2 h₁)]
    simp only [hcfg]
    by_cases h₂ : UartModeOn s ∨ BitIn s.cfg.ucrUart v
    · rw [if_pos h₂] at huart ⊢
      exact if_pos (.inl (huart.2 h₂))
    · rw [if_neg h₂] at huart ⊢
      exact if_neg (by tauto)
  · rw [if_neg h₁] at huart
    rw [if_neg h₁, if_neg (hinit.not.2 h₁)]
    by_cases h₂ : UartModeOn s
    · rw [if_pos h₂]
      exact if_pos (huart.2 (.inl h₂))
    · rw [if_neg h₂] at huart ⊢
      exact if_neg (by tauto)

theorem writeUartcr_again (v : Word) (s : State) :
    reg (writeUartcr v (writeUartcr v s)) .uartcr = reg (writeUartcr v s) .uartcr := by
  have hcfg : (writeUartcr v s).cfg = s.cfg := (writeRule_restKept .uartcr 0#12 v s).1
  have hcr1 : reg (writeUartcr v s) .lincr1 = reg s .lincr1 :=
    writeRule_regsKept .uartcr 0#12 v s .lincr1 (by decide)
  have hucr := writeUartcr_reg_uartcr v s
  rw [writeUartcr_reg_uartcr, uartcrGain_again hcfg hcr1 hucr, hucr, BitVec.or_assoc, BitVec.or_self]

/-- Storing the same value again, or setting the flag again, changes nothing (R101). -/
theorem writeLincr1_again (v : Word) (s : State) (q : Reg) (hq : q = .lincr1 ∨ q = .linsr) :
    reg (writeLincr1 v (writeLincr1 v s)) q = reg (writeLincr1 v s) q := by
  have hcfg : (writeLincr1 v s).cfg = s.cfg := (writeRule_restKept .lincr1 0#12 v s).1
  rcases hq with rfl | rfl
  · simp [writeLincr1_reg]
  · by_cases hbit : BitIn s.cfg.cr1Init (v &&& 0x0001DF27#32) <;>
      simp [writeLincr1_reg, hcfg, hbit, BitVec.or_assoc]

theorem writeBdrl_again (v : Word) (s : State) (q : Reg) (hq : q = .bdrl ∨ q = .uartsr) :
    reg (writeBdrl v (writeBdrl v s)) q = reg (writeBdrl v s) q := by
  have hcfg : (writeBdrl v s).cfg = s.cfg := rfl
  rcases hq with rfl | rfl
  · simp [writeBdrl_reg]
  · simp [writeBdrl_reg, hcfg, BitVec.or_assoc]

/-- A rule run again leaves the registers as they are (R70). -/
theorem writeRule_again (r : Reg) (offset : Offset) (v : Word) (s : State) (q : Reg) :
    reg (writeRule r offset v (writeRule r offset v s)) q = reg (writeRule r offset v s) q := by
  by_cases hq : q ∈ writtenRegs r
  · by_cases hr : Inert r
    · rw [writtenRegs_of_inert hr, List.mem_singleton] at hq
      rw [writeRule_of_inert hr, storeInert_reg, storeInert_reg, if_pos hq, if_pos hq]
    · cases r
      case lincr1 => exact writeLincr1_again v s q (by simpa [writtenRegs] using hq)
      case bdrl => exact writeBdrl_again v s q (by simpa [writtenRegs] using hq)
      case linier =>
        cases List.mem_singleton.1 hq
        simp [writeRule, writeLinier_reg]
      case uartcr =>
        cases List.mem_singleton.1 hq
        exact writeUartcr_again v s
      case uartsr =>
        cases List.mem_singleton.1 hq
        simp [writeRule, writeUartsr_reg, BitVec.and_assoc]
      all_goals exact absurd (by decide) hr
  · exact writeRule_regsKept r offset v _ q hq

/-- A write repeated finds the registers as the first left them. -/
theorem WriteEffect.again {r : Reg} {offset : Offset} {v : Word} {s t u : State}
    (h₁ : WriteEffect r offset v s t) (h₂ : WriteEffect r offset v t u) (q : Reg) : reg u q = reg t q := by
  have hcfg : t.cfg = (writeRule r offset v s).cfg := h₁.restKept.1.trans (writeRule_restKept r offset v s).1.symm
  rw [h₂.reg_eq, writeRule_reg_congr r offset v hcfg h₁.reg_eq, writeRule_again, h₁.reg_eq]

/-- A UARTSR write notifies only for a receive flag that it clears, so none after the first is notified again (R106). -/
theorem count_resume_again {r : Reg} {offset : Offset} {v : Word} {s t : State} (hok : s.cfg.ok = true)
    (h : WriteEffect r offset v s t) : (writeEvents r offset v t).count .resume = 0 := by
  cases r
  case uartsr =>
    obtain ⟨-, -, -, hrbf, hrmb, -, -, -, -, -, -, -, -, hrbf16, hrmb16, -⟩ := params_ok_spec s.cfg hok
    simp only [writeEvents, h.restKept.1, h.reg_uartsr, bitIn_cleared _ _ hrbf hrbf16, bitIn_cleared _ _ hrmb hrmb16,
      bitIn_low16 _ hrbf hrbf16, bitIn_low16 _ hrmb hrmb16]
    rw [if_neg (by tauto)]
    rfl
  all_goals rfl

/-- The byte an event pushes to the transport, if it pushes one. -/
def sentByte : Event → Option Byte
  | .txByte b => some b
  | _ => none

theorem sentBytes_eq (s : State) : sentBytes s = s.trace.filterMap sentByte :=
  congrArg (List.filterMap · s.trace) (funext fun e => by cases e <;> rfl)

/-- Only BDRL's rule pushes a byte (R115). -/
theorem sentByte_writeEvents (r : Reg) (offset : Offset) (size : AccessSize) (data : Word) (s : State) :
    (writeEvents r offset (lowPart size data) s).filterMap sentByte =
      if r = .bdrl then [BitVec.ofNat 8 data.toNat] else [] := by
  cases r
  case bdrl => exact congrArg (fun b => [b]) (charByte_lowPart size data)
  case uartsr =>
    unfold writeEvents
    dsimp only
    split <;> rfl
  all_goals rfl

theorem WriteEffect.sentBytes_eq {r : Reg} {offset : Offset} {v : Word} {s t : State}
    (h : WriteEffect r offset v s t) :
    sentBytes t = sentBytes s ++ (writeEvents r offset v s).filterMap sentByte := by
  rw [Machine.sentBytes_eq, Machine.sentBytes_eq, h.redriven.1]
  simp [sentByte]

theorem regIndex_eq_bdrl_iff (r : Reg) : regIndex r = 14 ↔ r = .bdrl := by
  cases r <;> decide

/-- The repeated write of a register (R70). -/
theorem exec_writeAt_valid_again {r : Reg} {offset : Offset} (hr : offset.toNat / 4 = regIndex r) (size : AccessSize)
    (data : Word) (s : State) (hok : s.cfg.ok = true) :
    ∃ t u, exec (writeAt offset size data) s = .next t ∧ exec (writeAt offset size data) t = .next u ∧
      u.regs = t.regs ∧ u.irq = t.irq ∧ resumeCount u = resumeCount t ∧
      sentBytes u = sentBytes t ++ (if offset.toNat / 4 = 14 then [BitVec.ofNat 8 data.toNat] else []) := by
  have h₁ := writeEffect_of_rule r offset (lowPart size data) s
  have ht := exec_writeAt_valid hr size data s
  generalize updateIRQ (writeRule r offset (lowPart size data) (answerWith s .nothing)) = t at h₁ ht
  have h₂ := writeEffect_of_rule r offset (lowPart size data) t
  have hregs := h₁.again h₂
  refine ⟨t, _, ht, exec_writeAt_valid hr size data t, regFile_ext _ _ hregs,
    irq_eq_of_lineCurrent h₁.redriven.2 h₂.redriven.2 h₂.restKept.1 hregs, ?_, ?_⟩
  · rw [h₂.resumeCount_eq, count_resume_again hok h₁, Nat.add_zero]
  · rw [h₂.sentBytes_eq, sentByte_writeEvents, hr]
    simp only [regIndex_eq_bdrl_iff]

/-- Settles O25: a register's write leaves a fixed point of its rule, and an invalid offset's write changes no register
and pushes nothing. -/
theorem repeatedWriteChangesNoRegisterAndOnlyBdrlPushesAgain :
    Obligations.RepeatedWriteChangesNoRegisterAndOnlyBdrlPushesAgain := by
  intro offset size data s hok
  rcases offset_cases offset with ⟨r, hr⟩ | hinv
  · exact exec_writeAt_valid_again hr size data s hok
  · have hindex : offset.toNat / 4 ≠ 14 := by omega
    exact ⟨_, _, exec_writeAt_invalid hinv size data s, exec_writeAt_invalid hinv size data _, rfl, rfl,
      by simp [resumeCount], by simp [sentBytes, hindex]⟩

end Sys2Proof.Machine

/-! Bus reads (41_bus_read.md R140 to R162): what a read answers and leaves, and what any operation does to one register,
said once; LINCR1's bit 7 (R141), the received byte (R156) and the legal values (10_state.md R49, R54) follow. -/

namespace Sys2Proof.Machine

theorem encodeRead_kind (size : AccessSize) (offset : Offset) : (encodeRead size offset).1.toNat / 2 ^ 29 = 0 := by
  rw [← kindField_toNat, encodeRead, operationWord_kind]
  rfl

theorem encodeRead_offset (size : AccessSize) (offset : Offset) :
    (encodeRead size offset).1.toNat % 4096 = offset.toNat := by
  rw [← offsetField_toNat, encodeRead, operationWord_offset]

theorem spelledAt_readOf (r : Reg) (size : AccessSize) (lane : Lane) :
    SpelledAt 0 (4 * regIndex r) (readOf r size lane) := by
  have hlane := lane.isLt
  rw [SpelledAt, encode_readOf, encodeRead_kind, encodeRead_offset, regOffset_toNat]
  omega

/-- Every read of a register completes: its rule's touch of the storage, then the answer (R140). -/
theorem exec_readOf_next (r : Reg) (size : AccessSize) (lane : Lane) (s : State) :
    exec (readOf r size lane) s =
      .next (answerWith (readTouch r s) (.value (readView r (reg s r)) (lowPart size (readView r (reg s r))))) := by
  have h := exec_readAt_valid (regOffset_index r lane) size s
  rwa [readAt_regOffset] at h

/-! What an operation does to one register. -/

/-- Everything an operation can do to the register `q`. For a write, a delivery and reset hold the constructor says only
which registers are theirs: `WriteEffect` and `UartsrEffect` say with what value. -/
inductive RegChange (s t : State) (q : Reg) : Instr → Prop where
  | kept (i : Instr) (h : reg t q = reg s q) : RegChange s t q i
  /-- R141: the one read that stores. -/
  | force (size : AccessSize) (lane : Lane) (hq : q = .lincr1) (h : reg t q = reg s q ||| 0x00000080#32) :
      RegChange s t q (.rdLincr1 size lane)
  | write (r : Reg) (size : AccessSize) (lane : Lane) (data : Word) (hq : q ∈ writtenRegs r)
      (heffect : WriteEffect r (regOffset r lane) (lowPart size data) s t) :
      RegChange s t q (writeOf r size lane data)
  /-- R172. -/
  | delivery (b : Byte) (hq : q ∈ [Reg.bdrm, .uartsr]) : RegChange s t q (.rx b)
  /-- R231. -/
  | resetEnter (h : reg t q = powerOn q) : RegChange s t q .rstEnter
  /-- R232. -/
  | resetHold (hq : q = .uartsr) : RegChange s t q .rstHold
  /-- R235: any value. -/
  | load : RegChange s t q .postload

theorem regChange_readOf (r : Reg) (size : AccessSize) (lane : Lane) {s t : State} (q : Reg)
    (h : exec (readOf r size lane) s = .next t) : RegChange s t q (readOf r size lane) := by
  rw [exec_readOf_next] at h
  cases h
  by_cases hq : q = .lincr1
  · subst hq
    cases r
    case lincr1 => exact .force size lane rfl rfl
    all_goals exact .kept _ rfl
  · exact .kept _ (readTouch_regsKept r s q (List.mem_singleton.not.2 hq))

theorem regChange_writeOf (r : Reg) (size : AccessSize) (lane : Lane) (data : Word) {s t : State} (q : Reg)
    (h : exec (writeOf r size lane data) s = .next t) : RegChange s t q (writeOf r size lane data) := by
  have heffect := writeEffect_of_exec h
  by_cases hq : q ∈ writtenRegs r
  · exact .write r size lane data hq heffect
  · exact .kept _ (heffect.regsKept q hq)

theorem deliver_regsKept (b : Byte) (s : State) : RegsKept [.bdrm, .uartsr] s (deliver b s) := by
  intro q hq
  have hq' : q ≠ .bdrm ∧ q ≠ .uartsr := by simpa using hq
  simp [deliver, hq']

theorem regChange_rx (b : Byte) {s t : State} (q : Reg) (h : exec (.rx b) s = .next t) :
    RegChange s t q (.rx b) := by
  cases h
  by_cases hq : q ∈ [Reg.bdrm, .uartsr]
  · exact .delivery b hq
  · exact .kept _ (deliver_regsKept b (answerWith s .nothing) q hq)

theorem exec_regChange {i : Instr} {s t : State} (h : exec i s = .next t) (q : Reg) : RegChange s t q i := by
  induction i using instr_shapes with
  | read r size lane => exact regChange_readOf r size lane q h
  | write r size lane data => exact regChange_writeOf r size lane data q h
  | rx b => exact regChange_rx b q h
  | rstEnter =>
    cases h
    exact .resetEnter (fileGet_fileOf powerOn q)
  | rstHold =>
    cases h
    by_cases hq : q = .uartsr
    · exact .resetHold hq
    · exact .kept _ (by simp [hq])
  | postload => exact .load
  | rdInvalid | wrInvalid | gate | rstExit =>
    cases h
    exact .kept _ rfl

/-- Only LINSR and UARTSR are written by the write of another register (R101, R115). -/
theorem eq_of_mem_writtenRegs {r q : Reg} (hlsr : q ≠ .linsr) (husr : q ≠ .uartsr) (h : q ∈ writtenRegs r) :
    q = r := by
  by_cases hr : r = .lincr1 ∨ r = .bdrl
  · rcases hr with rfl | rfl
    · simpa [writtenRegs, hlsr] using h
    · simpa [writtenRegs, husr] using h
  · cases r
    case lincr1 | bdrl => simp at hr
    all_goals exact List.mem_singleton.1 h

/-! What LINCR1, LINIER and UARTSR can hold absent a snapshot load (10_state.md R49, R54). -/

/-- No bit of `v` lies outside `m`. -/
abbrev Within (m v : Word) : Prop :=
  v &&& ~~~m = 0#32

theorem within_or {m u v : Word} (hu : Within m u) (hv : Within m v) : Within m (u ||| v) :=
  not_not.1 fun h => ((bitIn_or _ u v).1 h).elim (· hu) (· hv)

theorem within_and {m k : Word} (v : Word) (h : Within m k) : Within m (v &&& k) := by
  rw [Within, BitVec.and_assoc, h, BitVec.and_zero]

/-- A register no other operation writes stays within a mask that has its power-on value and what its own write, and
the forcing read, leave in it. -/
theorem RegChange.within {i : Instr} {s t : State} {q : Reg} {m : Word} (hchange : RegChange s t q i)
    (hload : i ≠ .postload) (hown : q ∉ [Reg.linsr, .uartsr, .bdrm]) (hforce : q = .lincr1 → Within m 0x00000080#32)
    (hpower : Within m (powerOn q)) (hwrite : ∀ offset v, WriteEffect q offset v s t → Within m (reg t q))
    (hs : Within m (reg s q)) : Within m (reg t q) := by
  obtain ⟨hlsr, husr, hbdrm⟩ : q ≠ .linsr ∧ q ≠ .uartsr ∧ q ≠ .bdrm := by simpa using hown
  cases hchange with
  | kept i h => rwa [h]
  | force size lane hq h =>
    rw [h]
    exact within_or hs (hforce hq)
  | write r size lane data hq heffect =>
    obtain rfl := eq_of_mem_writtenRegs hlsr husr hq
    exact hwrite _ _ heffect
  | delivery b hq => simp [hbdrm, husr] at hq
  | resetEnter h => rwa [h]
  | resetHold hq => exact absurd hq husr
  | load => exact absurd rfl hload

theorem RegChange.lincr1Legal {i : Instr} {s t : State} (hchange : RegChange s t .lincr1 i) (hload : i ≠ .postload)
    (hs : Lincr1Legal s) : Lincr1Legal t :=
  hchange.within hload (by decide) (fun _ => by decide) (by decide)
    (fun _ _ heffect => heffect.reg_lincr1 ▸ within_and _ (by decide)) hs

theorem RegChange.linierLegal {i : Instr} {s t : State} (hchange : RegChange s t .linier i) (hload : i ≠ .postload)
    (hs : LinierLegal s) : LinierLegal t :=
  hchange.within hload (by decide) (fun hq => absurd hq (by decide)) (by decide)
    (fun _ _ heffect => heffect.reg_linier ▸ within_and _ (by decide)) hs

/-- The three flags of UARTSR (R44). -/
abbrev flagMask (p : Params) : Word :=
  p.usrRbf ||| p.usrRmb ||| p.usrTbe

theorem within_flagMask (p : Params) :
    Within (flagMask p) p.usrRbf ∧ Within (flagMask p) p.usrRmb ∧ Within (flagMask p) p.usrTbe := by
  refine ⟨?_, ?_, ?_⟩ <;> ext <;> simp +contextual

theorem UartsrEffect.within_flags {i : Instr} {s t : State} (he : UartsrEffect s t i)
    (hs : Within (flagMask s.cfg) (reg s .uartsr)) : Within (flagMask s.cfg) (reg t .uartsr) := by
  obtain ⟨hrbf, hrmb, htbe⟩ := within_flagMask s.cfg
  cases he with
  | kept i h => exact h ▸ hs
  | resetEnter h => rw [h, Within, BitVec.zero_and]
  | resetHold h => exact h ▸ within_or hs htbe
  | delivery byte h => exact h ▸ within_or (within_or hs hrbf) hrmb
  | transmit size lane data h => exact h ▸ within_or hs htbe
  | clear size lane data h =>
    rw [h, BitVec.and_comm]
    exact within_and _ hs

theorem exec_uartsrLegal {i : Instr} {s t : State} (hload : i ≠ .postload) (hs : UartsrLegal s)
    (h : exec i s = .next t) : UartsrLegal t := by
  obtain ⟨hcfg, -⟩ := exec_restKept h
  rw [UartsrLegal, hcfg]
  exact (exec_uartsrEffect i s t hload h).within_flags hs

theorem exec_registersLegal {i : Instr} {s t : State} (hload : i ≠ .postload) (hs : RegistersLegal s)
    (h : exec i s = .next t) : RegistersLegal t := by
  obtain ⟨hlincr1, hlinier, huartsr⟩ := hs
  exact ⟨(exec_regChange h .lincr1).lincr1Legal hload hlincr1, (exec_regChange h .linier).linierLegal hload hlinier,
    exec_uartsrLegal hload huartsr h⟩

/-- Settles O44: a step is idle or runs the first pending call, which is no load, and leaves the later calls pending. -/
theorem registersStayLegalUnderEveryStep : Obligations.RegistersStayLegalUnderEveryStep := by
  rintro s t ⟨hlegal, hnoload⟩ h
  rcases step_next_cases s t h with ⟨-, rfl⟩ | ⟨c, rest, i, ph, hcalls, hdecode, -, -, hexec⟩
  · exact ⟨hlegal, hnoload⟩
  · have hload : i ≠ .postload := by
      rintro rfl
      exact hnoload c (hcalls ▸ List.mem_cons_self) hdecode
    obtain ⟨-, hrest, -⟩ := exec_restKept hexec
    have hpending : s.calls = c :: t.calls := hcalls.trans (congrArg (c :: ·) hrest.symm)
    exact ⟨exec_registersLegal (s := takeCall s c rest ph) hload hlegal hexec,
      fun c' hc' => hnoload c' (hpending ▸ List.mem_cons_of_mem c hc')⟩

/-! The reads one by one. -/

/-- The rows of `storedReads` are the reads of the registers without a read rule, at four times their index. -/
theorem storedReads_spec {p : Reg × Nat × (AccessSize → Lane → Instr)} (hp : p ∈ storedReads) :
    ∃ r, r ≠ .lincr1 ∧ r ≠ .bdrm ∧ p = (r, 4 * regIndex r, readOf r) := by
  unfold storedReads at hp
  fin_cases hp <;> exact ⟨_, by decide, by decide, rfl⟩

theorem readView_of_stored {r : Reg} (hcr1 : r ≠ .lincr1) (hbdrm : r ≠ .bdrm) (v : Word) : readView r v = v := by
  cases r
  case lincr1 => exact absurd rfl hcr1
  case bdrm => exact absurd rfl hbdrm
  all_goals rfl

theorem readTouch_of_ne_lincr1 {r : Reg} (hcr1 : r ≠ .lincr1) (s : State) : readTouch r s = s := by
  cases r
  case lincr1 => exact absurd rfl hcr1
  all_goals rfl

/-- Settles O18: each row is the read of a register that is read as stored and touches nothing. -/
theorem defaultReadReturnsTheStoredValue : Obligations.DefaultReadReturnsTheStoredValue := by
  intro p hp size lane s
  obtain ⟨r, hcr1, hbdrm, rfl⟩ := storedReads_spec hp
  have h := exec_readOf_next r size lane s
  rw [readView_of_stored hcr1 hbdrm, readTouch_of_ne_lincr1 hcr1] at h
  exact ⟨spelledAt_readOf r size lane, h⟩

/-- Once stored, bit 7 of LINCR1 falls only by a LINCR1 write, reset enter or a post-load (R141). -/
theorem RegChange.keeps_force {i : Instr} {s t : State} (hchange : RegChange s t .lincr1 i)
    (hset : BitIn 0x00000080#32 (reg s .lincr1)) (hwrite : ∀ size lane data, i ≠ .wrLincr1 size lane data)
    (henter : i ≠ .rstEnter) (hload : i ≠ .postload) : BitIn 0x00000080#32 (reg t .lincr1) := by
  cases hchange with
  | kept i h => exact h ▸ hset
  | force size lane hq h => exact h ▸ bitIn_self_or _ _ (by decide)
  | write r size lane data hq heffect =>
    obtain rfl := eq_of_mem_writtenRegs (by decide) (by decide) hq
    exact absurd rfl (hwrite size lane data)
  | delivery b hq => exact absurd hq (by decide)
  | resetEnter h => exact absurd rfl henter
  | resetHold hq => exact absurd hq (by decide)
  | load => exact absurd rfl hload

/-- Settles O19: the read's touch is the OR its answer shows, and no operation but the three takes the bit away. -/
theorem readControl1ForcesBit7InStoreAndResult : Obligations.ReadControl1ForcesBit7InStoreAndResult := by
  refine ⟨fun size lane s => ⟨spelledAt_readOf .lincr1 size lane, ?_⟩,
    fun i s t h => (exec_regChange h .lincr1).keeps_force⟩
  exact ⟨_, exec_readOf_next .lincr1 size lane s, rfl, readTouch_regsKept .lincr1 s, rfl,
    bitIn_self_or _ (reg s .lincr1) (by decide), ⟨rfl, rfl⟩, readTouch_kept .lincr1 s⟩

/-- What a read of BDRM answers; the rest of the state is as it was (R156). -/
theorem exec_rdBdrm (size : AccessSize) (lane : Lane) (s : State) :
    exec (.rdBdrm size lane) s =
      .next (answerWith s (.value (reg s .bdrm &&& 0x000000FF#32) (lowPart size (reg s .bdrm &&& 0x000000FF#32)))) :=
  exec_readOf_next .bdrm size lane s

theorem lowPart_zero (size : AccessSize) : lowPart size 0#32 = 0#32 := by
  rw [lowPart, BitVec.toNat_ofNat, Nat.zero_mod]

/-- The low byte of BDRM is stored by a delivery, a BDRM write and a post-load, and zeroed by reset enter (R156). -/
theorem RegChange.bdrm_lowByte {i : Instr} {s t : State} (hchange : RegChange s t .bdrm i) (hrx : ∀ b, i ≠ .rx b)
    (hwrite : ∀ size lane data, i ≠ .wrBdrm size lane data) (hload : i ≠ .postload) :
    reg t .bdrm &&& 0x000000FF#32 = reg s .bdrm &&& 0x000000FF#32 ∨ (i = .rstEnter ∧ reg t .bdrm = 0#32) := by
  cases hchange with
  | kept i h => exact .inl (by rw [h])
  | force size lane hq h => exact absurd hq (by decide)
  | write r size lane data hq heffect =>
    obtain rfl := eq_of_mem_writtenRegs (by decide) (by decide) hq
    exact absurd rfl (hwrite size lane data)
  | delivery b hq => exact absurd rfl (hrx b)
  | resetEnter h => exact .inr ⟨rfl, h⟩
  | resetHold hq => exact absurd hq (by decide)
  | load => exact absurd rfl hload

/-- Settles O20: the read changes the answer alone, so it reads the same again; the reset value is 0. -/
theorem readReceiveBufferReturnsLowByteAndRearmsNothing :
    Obligations.ReadReceiveBufferReturnsLowByteAndRearmsNothing := by
  refine ⟨fun size lane s => ⟨spelledAt_readOf .bdrm size lane, _, exec_rdBdrm size lane s, rfl,
      exec_rdBdrm size lane _⟩, fun size lane cfg => ?_, fun i s t h => (exec_regChange h .bdrm).bdrm_lowByte⟩
  have hreset : reg (State.resetWith cfg) .bdrm = 0#32 := rfl
  rw [exec_rdBdrm, hreset, BitVec.zero_and, lowPart_zero]
  rfl

/-- A register's read is never the read of an invalid offset (R85). -/
theorem readOf_ne_rdInvalid (r : Reg) (size size' : AccessSize) (lane : Lane) (offset : Offset) :
    readOf r size lane ≠ .rdInvalid size' offset := by
  cases r <;> exact nofun

theorem readAt_eq_rdInvalid_iff (offset : Offset) (size : AccessSize) :
    readAt offset size = .rdInvalid size offset ↔ 20 < offset.toNat / 4 := by
  refine ⟨fun h => (offset_cases offset).resolve_left fun ⟨r, hr⟩ => ?_, readAt_invalid offset size⟩
  rw [readAt_valid r offset size hr] at h
  exact readOf_ne_rdInvalid _ _ _ _ _ h

/-- Settles O21: the read answers 0, whose low part is 0, after one report. -/
theorem invalidReadReportsAndReturnsZero : Obligations.InvalidReadReportsAndReturnsZero := by
  intro size offset s
  refine ⟨⟨encodeRead_kind size offset, encodeRead_offset size offset, readAt_eq_rdInvalid_iff offset size⟩, ?_⟩
  rw [exec_rdInvalid, busRead_spec, lowPart_zero]
  rfl

end Sys2Proof.Machine

/-! What the block tells the transport (42_transport.md R173, R174): which operations notify it and which push it a
byte. -/

namespace Sys2Proof.Machine

/-- Everything an operation can tell the transport. For a register's write the constructor says only that it is one:
`writeEvents` says what its rule emits. -/
inductive TransportOutput (s t : State) : Instr → Prop where
  | silent (i : Instr) (hresume : resumeCount t = resumeCount s) (hsent : sentBytes t = sentBytes s) :
      TransportOutput s t i
  | write (r : Reg) (size : AccessSize) (lane : Lane) (data : Word)
      (heffect : WriteEffect r (regOffset r lane) (lowPart size data) s t) :
      TransportOutput s t (writeOf r size lane data)
  /-- R233. -/
  | resetExit (hresume : resumeCount t = resumeCount s + 1) (hsent : sentBytes t = sentBytes s) :
      TransportOutput s t .rstExit

/-- Notifications and pushed bytes are read off the trace alone. -/
theorem transportOutput_of_trace {i : Instr} {s t : State} (h : t.trace = s.trace) : TransportOutput s t i :=
  .silent i (by rw [resumeCount, resumeCount, h]) (by rw [sentBytes, sentBytes, h])

/-- Re-driving the line tells the transport nothing (R201). -/
theorem transportOutput_updateIRQ {i : Instr} {s u : State} (h : u.trace = s.trace) :
    TransportOutput s (updateIRQ u) i :=
  .silent i (by rw [resumeCount_updateIRQ, resumeCount, resumeCount, h])
    (by rw [sentBytes_updateIRQ, sentBytes, sentBytes, h])

/-- Reset exit notifies once, after the line (R233). -/
theorem exec_rstExit_output {s t : State} (h : exec .rstExit s = .next t) :
    resumeCount t = resumeCount s + 1 ∧ sentBytes t = sentBytes s := by
  cases h
  exact ⟨by simp [resumeCount], by simp [sentBytes]⟩

theorem exec_transportOutput {i : Instr} {s t : State} (h : exec i s = .next t) : TransportOutput s t i := by
  induction i using instr_shapes with
  | read r size lane =>
    rw [exec_readOf] at h
    cases h
    exact transportOutput_of_trace (readTouch_trace s r)
  | write r size lane data => exact .write r size lane data (writeEffect_of_exec h)
  | rdInvalid size offset =>
    cases h
    exact .silent _ (resumeCount_report s _ _) (sentBytes_report s _ _)
  | wrInvalid size offset data =>
    cases h
    exact .silent _ ((resumeCount_updateIRQ _).trans (resumeCount_report _ _ _))
      ((sentBytes_updateIRQ _).trans (sentBytes_report _ _ _))
  | rx byte =>
    cases h
    exact transportOutput_updateIRQ rfl
  | rstExit =>
    obtain ⟨hresume, hsent⟩ := exec_rstExit_output h
    exact .resetExit hresume hsent
  | postload =>
    obtain ⟨r, f, -, -, rfl⟩ := (exec_postload_next s t).1 h
    exact transportOutput_updateIRQ rfl
  | gate | rstEnter | rstHold =>
    cases h
    exact transportOutput_of_trace rfl

/-- Of the write rules only UARTSR's notifies (R106). -/
theorem count_resume_writeEvents {r : Reg} (hr : r ≠ .uartsr) (offset : Offset) (v : Word) (s : State) :
    (writeEvents r offset v s).count .resume = 0 := by
  cases r
  case uartsr => exact absurd rfl hr
  all_goals rfl

/-- A UARTSR write notifies once when a receive flag falls: the flags that fall are the set ones it acknowledges
(R106). -/
theorem WriteEffect.resumeCount_of_uartsr {offset : Offset} {v : Word} {s t : State} (hok : s.cfg.ok = true)
    (h : WriteEffect .uartsr offset v s t) :
    resumeCount t = resumeCount s +
      (if (BitIn s.cfg.usrRbf (reg s .uartsr) ∧ ¬ BitIn s.cfg.usrRbf (reg t .uartsr)) ∨
          (BitIn s.cfg.usrRmb (reg s .uartsr) ∧ ¬ BitIn s.cfg.usrRmb (reg t .uartsr)) then 1 else 0) := by
  obtain ⟨-, -, -, hrbf, hrmb, -, -, -, -, -, -, -, -, hrbf16, hrmb16, -⟩ := params_ok_spec s.cfg hok
  have hfall (flag ack : Prop) : (flag ∧ ¬ (flag ∧ ¬ ack)) ↔ flag ∧ ack := by tauto
  rw [h.resumeCount_eq, h.reg_uartsr]
  simp only [writeEvents, bitIn_cleared _ _ hrbf hrbf16, bitIn_cleared _ _ hrmb hrmb16, bitIn_low16 _ hrbf hrbf16,
    bitIn_low16 _ hrmb hrmb16, hfall]
  split <;> rfl

/-- Settles O32: of what an operation can tell the transport, a notification is reset exit's, or a UARTSR write's for a
flag that falls. -/
theorem onlyUartStatusWritesAndResetExitNotify : Obligations.OnlyUartStatusWritesAndResetExitNotify := by
  intro i s t hok h
  refine ⟨?exit, ?uartsr, fun hexit huartsr => ?others⟩
  case exit =>
    rintro rfl
    obtain ⟨hresume, -⟩ := exec_rstExit_output h
    exact hresume
  case uartsr =>
    rintro size lane data rfl
    exact (writeEffect_of_exec (r := .uartsr) h).resumeCount_of_uartsr hok
  case others =>
    cases exec_transportOutput h with
    | silent i hresume hsent => exact hresume
    | write r size lane data heffect =>
      have hr : r ≠ .uartsr := by
        rintro rfl
        exact huartsr size lane data rfl
      rw [heffect.resumeCount_eq, count_resume_writeEvents hr, Nat.add_zero]
    | resetExit hresume hsent => exact absurd rfl hexit

theorem WriteEffect.sentBytes_of_writeOf {r : Reg} {offset : Offset} {size : AccessSize} {data : Word} {s t : State}
    (h : WriteEffect r offset (lowPart size data) s t) :
    sentBytes t = sentBytes s ++ if r = .bdrl then [BitVec.ofNat 8 data.toNat] else [] := by
  rw [h.sentBytes_eq, sentByte_writeEvents]

/-- Settles O33: of what an operation can tell the transport, a byte is a BDRL write's. -/
theorem onlyTransmitBufferWritesPushBytes : Obligations.OnlyTransmitBufferWritesPushBytes := by
  intro i s t h
  refine ⟨?bdrl, fun hbdrl => ?others⟩
  case bdrl =>
    rintro size lane data rfl
    exact (writeEffect_of_exec (r := .bdrl) h).sentBytes_of_writeOf
  case others =>
    cases exec_transportOutput h with
    | silent i hresume hsent => exact hsent
    | write r size lane data heffect =>
      have hr : r ≠ .bdrl := by
        rintro rfl
        exact hbdrl size lane data rfl
      rw [heffect.sentBytes_of_writeOf, if_neg hr, List.append_nil]
    | resetExit hresume hsent => exact hsent

end Sys2Proof.Machine

/-! The calls the step turns away (42_transport.md R175, 20_memory.md R66, 70_reset_and_hazards.md R230), each check said
once. -/

namespace Sys2Proof.Machine

/-- Every operation but POSTLOAD answers a next state (R211). -/
theorem exec_completes {i : Instr} (hload : i ≠ .postload) (s : State) : ∃ t, exec i s = .next t := by
  induction i using instr_shapes with
  | read r size lane => exact ⟨_, exec_readOf_next r size lane s⟩
  | write r size lane data =>
    obtain ⟨t, ht, -⟩ := exec_writeOf_effect r size lane data s
    exact ⟨t, ht⟩
  | postload => exact absurd rfl hload
  | rdInvalid | wrInvalid | gate | rx | rstEnter | rstHold | rstExit => exact ⟨_, rfl⟩

/-- An operation refuses its record only; who may call it is checked before it runs (R235). -/
theorem exec_refused {i : Instr} {s : State} {r : Refusal} (h : exec i s = .refused r) :
    r = .recordMissing ∨ r = .recordFormat := by
  by_cases hload : i = .postload
  · subst hload
    change execPostload s = .refused r at h
    unfold execPostload at h
    split at h
    · exact .inl (Host.Outcome.refused.inj h).symm
    · split at h
      · exact .inr (Host.Outcome.refused.inj h).symm
      · cases h
  · obtain ⟨t, ht⟩ := exec_completes hload s
    cases ht.symm.trans h

/-- A delivery that the gate does not admit (R175). -/
abbrev ClosedDelivery (i : Instr) (s : State) : Prop :=
  (∃ b, i = .rx b) ∧ GateClosed s

/-- A misaligned access on a bus that admits none (R66). -/
abbrev UnpresentedAccess (i : Instr) (s : State) : Prop :=
  ∃ offset size, busAccess i = some (offset, size) ∧ s.cfg.admitsUnaligned = false ∧
    (offset.toNat % size.bytes ≠ 0 ∨ 4 < offset.toNat % 4 + size.bytes)

theorem misaligned_iff (offset : Offset) (size : AccessSize) :
    misaligned offset size = true ↔ offset.toNat % size.bytes ≠ 0 ∨ 4 < offset.toNat % 4 + size.bytes := by
  simp [misaligned]

theorem notPermitted_rx (b : Byte) (s : State) :
    notPermitted (.rx b) s = if GateClosed s then some .deliveryWhileGateClosed else none := by
  by_cases hclosed : GateClosed s
  · have hgate : gateOpen s = false := Bool.eq_false_iff.2 fun h => (gateOpen_spec s).1 h hclosed
    rw [if_pos hclosed]
    simp [notPermitted, hgate]
  · rw [if_neg hclosed]
    simp [notPermitted, (gateOpen_spec s).2 hclosed]

theorem unpresentedAccess_iff {i : Instr} {offset : Offset} {size : AccessSize} (h : busAccess i = some (offset, size))
    (s : State) : UnpresentedAccess i s ↔ s.cfg.admitsUnaligned = false ∧ misaligned offset size = true := by
  rw [misaligned_iff]
  refine ⟨fun ⟨offset', size', h', hcheck⟩ => ?_, fun hcheck => ⟨offset, size, h, hcheck⟩⟩
  cases h.symm.trans h'
  exact hcheck

theorem notPermitted_of_access {i : Instr} {offset : Offset} {size : AccessSize}
    (h : busAccess i = some (offset, size)) (s : State) :
    notPermitted i s =
      if s.cfg.admitsUnaligned = false ∧ misaligned offset size = true then some .unalignedNotPresented else none := by
  unfold notPermitted
  split
  · cases h
  · rw [h]
    simp [and_comm]

theorem notPermitted_of_no_access {i : Instr} (hrx : ∀ b, i ≠ .rx b) (h : busAccess i = none) (s : State) :
    notPermitted i s = none := by
  unfold notPermitted
  split
  case h_1 b => exact absurd rfl (hrx b)
  case h_2 => rw [h]

/-- The two reasons for which a call may not be made, and their names. -/
theorem notPermitted_eq_some_iff (i : Instr) (s : State) (r : Refusal) :
    notPermitted i s = some r ↔
      (r = .deliveryWhileGateClosed ∧ ClosedDelivery i s) ∨ (r = .unalignedNotPresented ∧ UnpresentedAccess i s) := by
  by_cases hrx : ∃ b, i = .rx b
  · obtain ⟨b, rfl⟩ := hrx
    have hbus : ¬ UnpresentedAccess (.rx b) s := fun ⟨_, _, h, _⟩ => nomatch h
    rw [notPermitted_rx]
    by_cases hclosed : GateClosed s <;> simp [hclosed, hbus, ClosedDelivery, eq_comm]
  · have hdelivery : ¬ ClosedDelivery i s := fun h => hrx h.1
    cases hbus : busAccess i with
    | none => simp [notPermitted_of_no_access (fun b hb => hrx ⟨b, hb⟩) hbus, hdelivery, UnpresentedAccess, hbus]
    | some access =>
      obtain ⟨offset, size⟩ := access
      rw [notPermitted_of_access hbus, unpresentedAccess_iff hbus]
      by_cases hcheck : s.cfg.admitsUnaligned = false ∧ misaligned offset size = true
      · obtain ⟨hadmits, hmisaligned⟩ := hcheck
        simp [hadmits, hmisaligned, hdelivery, eq_comm]
      · rw [if_neg hcheck]
        exact iff_of_false nofun fun h => h.elim (fun h => hdelivery h.2) fun h => hcheck h.2

theorem notPermitted_ne_none_iff (i : Instr) (s : State) :
    notPermitted i s ≠ none ↔ ClosedDelivery i s ∨ UnpresentedAccess i s := by
  rw [Option.ne_none_iff_exists']
  simp only [notPermitted_eq_some_iff, exists_or, exists_eq_left]

/-- An operation is out of order outside the phase in which it may be called (R230). -/
theorem phaseAfter_eq_none_iff (ph : ResetPhase) (i : Instr) : phaseAfter ph i = none ↔ ph ≠ phaseBefore i := by
  rw [Option.eq_none_iff_forall_not_mem]
  simp only [Option.mem_def, phaseAfter_spec, not_and]
  exact ⟨fun h hph => h _ hph rfl, fun h _ hph => absurd hph h⟩

theorem phaseBefore_eq_entered_iff (i : Instr) : phaseBefore i = .entered ↔ i = .rstHold := by
  cases i <;> simp [phaseBefore]

theorem phaseBefore_eq_held_iff (i : Instr) : phaseBefore i = .held ↔ i = .rstExit := by
  cases i <;> simp [phaseBefore]

theorem phaseBefore_eq_running_iff (i : Instr) : phaseBefore i = .running ↔ ¬ (i = .rstHold ∨ i = .rstExit) := by
  rw [← phaseBefore_eq_entered_iff, ← phaseBefore_eq_held_iff]
  cases phaseBefore i <;> simp

/-- The calls out of the order of a reset, phase by phase (R230). -/
theorem phaseAfter_eq_none_cases (ph : ResetPhase) (i : Instr) :
    phaseAfter ph i = none ↔
      (ph = .running ∧ (i = .rstHold ∨ i = .rstExit)) ∨ (ph = .entered ∧ i ≠ .rstHold) ∨
      (ph = .held ∧ i ≠ .rstExit) := by
  rw [phaseAfter_eq_none_iff, ne_comm]
  cases ph with
  | running => simp [phaseBefore_eq_running_iff, ← or_iff_not_imp_left]
  | entered => simp [phaseBefore_eq_entered_iff]
  | held => simp [phaseBefore_eq_held_iff]

section
variable {s : State} {c : Call} {rest : List Call} {i : Instr}

theorem step_of_order_broken (hcalls : s.calls = c :: rest) (hdecode : decode c.w c.d = .ok i)
    (horder : phaseAfter s.phase i = none) : step s = .refused .resetOrderBroken := by
  simp [step, nextOperation, hcalls, hdecode, horder]

theorem step_of_notPermitted (hcalls : s.calls = c :: rest) (hdecode : decode c.w c.d = .ok i) {r : Refusal}
    (horder : phaseAfter s.phase i ≠ none) (hrefused : notPermitted i s = some r) : step s = .refused r := by
  obtain ⟨ph, hph⟩ := Option.ne_none_iff_exists'.1 horder
  simp [step, nextOperation, hcalls, hdecode, hph, hrefused]

theorem step_of_permitted (hcalls : s.calls = c :: rest) (hdecode : decode c.w c.d = .ok i)
    (horder : phaseAfter s.phase i ≠ none) (hpermitted : notPermitted i s = none) :
    ∃ t, step s = exec i t := by
  obtain ⟨ph, hph⟩ := Option.ne_none_iff_exists'.1 horder
  exact ⟨_, stepRunsTheDecodedCall s c rest i ph hcalls hdecode hph hpermitted⟩

/-- The refusals of the step itself, not those of a record: an order broken, or a call that may not be made. -/
theorem step_eq_refused_iff (hcalls : s.calls = c :: rest) (hdecode : decode c.w c.d = .ok i) {r : Refusal}
    (hmissing : r ≠ .recordMissing) (hformat : r ≠ .recordFormat) :
    step s = .refused r ↔
      (phaseAfter s.phase i = none ∧ r = .resetOrderBroken) ∨
      (phaseAfter s.phase i ≠ none ∧ notPermitted i s = some r) := by
  by_cases horder : phaseAfter s.phase i = none
  · rw [step_of_order_broken hcalls hdecode horder]
    simp [horder, eq_comm]
  · cases hcheck : notPermitted i s with
    | some r' =>
      rw [step_of_notPermitted hcalls hdecode horder hcheck]
      simp [horder]
    | none =>
      obtain ⟨t, ht⟩ := step_of_permitted hcalls hdecode horder hcheck
      have hnot : exec i t ≠ .refused r := fun h => (exec_refused h).elim hmissing hformat
      rw [ht]
      simp [horder, hnot]

end

/-- Settles O7: the two checks are `notPermitted_ne_none_iff` and `phaseAfter_eq_none_cases`, and of the step's refusals
each name belongs to one of them. -/
theorem stepTurnsAwayExactlyTheCallsNoCollaboratorMakes :
    Obligations.StepTurnsAwayExactlyTheCallsNoCollaboratorMakes := by
  refine ⟨notPermitted_ne_none_iff, fun i ph => phaseAfter_eq_none_cases ph i,
    fun s c rest i hcalls hdecode => ⟨?order, fun horder => ⟨?delivery, ?unaligned, fun hpermitted hload => ?next⟩⟩⟩
  case order =>
    rw [step_eq_refused_iff (r := .resetOrderBroken) hcalls hdecode nofun nofun, notPermitted_eq_some_iff]
    simp
  case delivery =>
    rw [step_eq_refused_iff (r := .deliveryWhileGateClosed) hcalls hdecode nofun nofun, notPermitted_eq_some_iff]
    simp [horder]
  case unaligned =>
    rw [step_eq_refused_iff (r := .unalignedNotPresented) hcalls hdecode nofun nofun, notPermitted_eq_some_iff]
    simp [horder]
  case next =>
    obtain ⟨t, ht⟩ := step_of_permitted hcalls hdecode horder hpermitted
    obtain ⟨u, hu⟩ := exec_completes hload t
    exact ⟨u, ht.trans hu⟩

/-- Settles O8: outside a reset a delivery is in order, so the gate decides. -/
theorem deliveryWhileGateIsClosedHasNoStep : Obligations.DeliveryWhileGateIsClosedHasNoStep := by
  intro s c rest b hphase hcalls hdecode
  have horder : phaseAfter s.phase (.rx b) = some .running := by
    rw [hphase]
    rfl
  refine ⟨fun hclosed => ?_, fun hopen => ?_⟩
  · exact step_of_notPermitted hcalls hdecode (Option.ne_none_iff_exists'.2 ⟨_, horder⟩)
      ((notPermitted_rx b s).trans (if_pos hclosed))
  · rw [stepRunsTheDecodedCall s c rest (.rx b) .running hcalls hdecode horder
      ((notPermitted_rx b s).trans (if_neg hopen)), ← hphase]

end Sys2Proof.Machine

/-! The operations of the transport (42_transport.md R171, R172, R178): the gate's answer, a delivery's registers, and
what of the state they and the transmit push look at. -/

namespace Sys2Proof.Machine

/-- The gate's answer is all it changes (R171). -/
theorem exec_gate (s : State) : exec .gate s = .next (answerWith s (.accept (decide (¬ GateClosed s)))) := by
  have hgate : gateOpen s = decide (¬ GateClosed s) := by
    rw [Bool.eq_iff_iff, gateOpen_spec, decide_eq_true_iff]
  rw [← hgate]
  rfl

/-- Settles O28: the words are the encoder's, and the answer is `exec_gate`. -/
theorem gateAnswersWhetherNoReceiveFlagIsSet : Obligations.GateAnswersWhetherNoReceiveFlagIsSet :=
  ⟨rfl, exec_gate⟩

/-- Everything a delivery does (R172): two registers, then the line, and no answer. -/
structure DeliveryEffect (b : Byte) (s t : State) : Prop where
  reg_bdrm : reg t .bdrm = (reg s .bdrm &&& 0xFFFFFF00#32) ||| BitVec.ofNat 32 b.toNat
  reg_uartsr : reg t .uartsr = reg s .uartsr ||| (s.cfg.usrRbf ||| s.cfg.usrRmb)
  regsKept : RegsKept [.bdrm, .uartsr] s t
  redriven : Redriven [] s t
  answer : t.answer = .nothing
  restKept : RestKept s t

/-- Every delivery completes, with that effect: the block does not test the gate. -/
theorem exec_rx_effect (b : Byte) (s : State) : ∃ t, exec (.rx b) s = .next t ∧ DeliveryEffect b s t := by
  refine ⟨updateIRQ (deliver b (answerWith s .nothing)), rfl, ?_⟩
  have hmask : ~~~byteMask = 0xFFFFFF00#32 := by decide
  constructor
  case reg_bdrm => simp [deliver, hmask, BitVec.ofNat_toNat]
  case reg_uartsr => simp [deliver, BitVec.or_assoc]
  case regsKept => exact deliver_regsKept b (answerWith s .nothing)
  case redriven => exact ⟨by simp [deliver], updateIRQ_lineCurrent _⟩
  case answer => rfl
  case restKept => exact ⟨rfl, rfl, rfl, rfl⟩

/-- A delivery closes the gate when the receive-buffer-full mask has a bit (R171). -/
theorem DeliveryEffect.gateClosed {b : Byte} {s t : State} (h : DeliveryEffect b s t) (hrbf : s.cfg.usrRbf ≠ 0#32) :
    GateClosed t := by
  have hset : BitIn s.cfg.usrRbf s.cfg.usrRbf := by rwa [BitIn, BitVec.and_self]
  refine .inl ?_
  rw [h.restKept.1, h.reg_uartsr, bitIn_or, bitIn_or]
  exact .inr (.inl hset)

/-- Settles O29: the effect, and the gate it leaves closed. -/
theorem deliveryStoresTheByteAndSetsBothReceiveFlags : Obligations.DeliveryStoresTheByteAndSetsBothReceiveFlags := by
  intro b s
  obtain ⟨t, ht, h⟩ := exec_rx_effect b s
  have hwords : encode (.rx b) = (0x60000000#32, BitVec.ofNat 32 b.toNat) := by
    rw [BitVec.ofNat_toNat]
    rfl
  refine ⟨hwords, t, ht, h.reg_bdrm, h.reg_uartsr, h.regsKept, h.redriven, h.answer, h.restKept, fun hrbf => ?_⟩
  rw [exec_gate, decide_eq_false (not_not.2 (h.gateClosed hrbf))]
  rfl

/-- Two states alike in all that the gate, a delivery and a transmit look at. -/
structure TransportAlike (s t : State) : Prop where
  cfg : t.cfg = s.cfg
  reg_bdrm : reg t .bdrm = reg s .bdrm
  reg_uartsr : reg t .uartsr = reg s .uartsr
  sent : sentBytes t = sentBytes s

/-- The mode registers and the enables are no part of that (R178). -/
theorem transportAlike_of_modes (s : State) (a b c : Word) :
    TransportAlike s (setReg (setReg (setReg s .lincr1 a) .uartcr b) .linier c) :=
  ⟨rfl, rfl, rfl, rfl⟩

section
variable {s t : State}

theorem TransportAlike.gateClosed_iff (h : TransportAlike s t) : GateClosed t ↔ GateClosed s := by
  rw [GateClosed, h.cfg, h.reg_uartsr]

theorem TransportAlike.gate (h : TransportAlike s t) :
    ∃ g g', exec .gate s = .next g ∧ exec .gate t = .next g' ∧ g.answer = g'.answer :=
  ⟨_, _, exec_gate s, exec_gate t, by simp only [answerWith_answer, h.gateClosed_iff]⟩

theorem TransportAlike.delivery (h : TransportAlike s t) (b : Byte) :
    ∃ r r', exec (.rx b) s = .next r ∧ exec (.rx b) t = .next r' ∧ reg r .bdrm = reg r' .bdrm ∧
      reg r .uartsr = reg r' .uartsr := by
  obtain ⟨r, hr, heffect⟩ := exec_rx_effect b s
  obtain ⟨r', hr', heffect'⟩ := exec_rx_effect b t
  exact ⟨r, r', hr, hr', by rw [heffect.reg_bdrm, heffect'.reg_bdrm, h.reg_bdrm],
    by rw [heffect.reg_uartsr, heffect'.reg_uartsr, h.reg_uartsr, h.cfg]⟩

theorem TransportAlike.transmit (h : TransportAlike s t) (size : AccessSize) (lane : Lane) (data : Word) :
    ∃ x x', exec (.wrBdrl size lane data) s = .next x ∧ exec (.wrBdrl size lane data) t = .next x' ∧
      reg x .bdrl = reg x' .bdrl ∧ reg x .uartsr = reg x' .uartsr ∧ sentBytes x = sentBytes x' := by
  obtain ⟨x, hx, heffect⟩ := exec_writeOf_effect .bdrl size lane data s
  obtain ⟨x', hx', heffect'⟩ := exec_writeOf_effect .bdrl size lane data t
  exact ⟨x, x', hx, hx', by rw [heffect.reg_bdrl, heffect'.reg_bdrl],
    by rw [heffect.reg_uartsr_of_bdrl, heffect'.reg_uartsr_of_bdrl, h.reg_uartsr, h.cfg],
    by rw [heffect.sentBytes_of_writeOf, heffect'.sentBytes_of_writeOf, h.sent]⟩

end

/-- Settles O30: the two states are alike in all that the three operations look at. -/
theorem noModeGatesTheTransport : Obligations.NoModeGatesTheTransport := by
  intro s a b c byte size lane data
  have halike := transportAlike_of_modes s a b c
  obtain ⟨g, g', hg, hg', hanswer⟩ := halike.gate
  obtain ⟨r, r', hr, hr', hbdrm, husr⟩ := halike.delivery byte
  obtain ⟨x, x', hx, hx', hbdrl, husrTx, hsent⟩ := halike.transmit size lane data
  exact ⟨g, g', r, r', x, x', hg, hg', hanswer, hr, hr', hbdrm, husr, hx, hx', hbdrl, husrTx, hsent⟩

end Sys2Proof.Machine

/-! Completion (60_exceptions.md R211): which operations answer a next state, and from which states. -/

namespace Sys2Proof.Machine

/-- The records of R236's format are those that give a register file. -/
theorem recordRegs_isSome_iff (cfg : Params) (r : SnapshotRecord) :
    (∃ f, recordRegs cfg r = some f) ↔ r.version = cfg.snapshotVersion ∧ r.words.length = 21 := by
  simp only [recordRegs_spec, exists_and_left, ← fileOfWords_spec, fileOfWords_isSome_iff]

/-- Settles O10: only POSTLOAD can be without its operand, or have it in another format. -/
theorem everyOperationButPostloadCompletes : Obligations.EveryOperationButPostloadCompletes := by
  refine fun i s => ⟨fun hload => exec_completes hload s, ?_⟩
  simp only [← recordRegs_isSome_iff]
  constructor
  · rintro ⟨t, h⟩
    obtain ⟨r, f, hrecord, hregs, -⟩ := (exec_postload_next s t).1 h
    exact ⟨r, hrecord, f, hregs⟩
  · rintro ⟨r, hrecord, f, hregs⟩
    exact ⟨_, (exec_postload_next s _).2 ⟨r, f, hrecord, hregs, rfl⟩⟩

end Sys2Proof.Machine

/-! The line (60_exceptions.md R200 to R203): the level `UpdateIRQ()` drives, the operations that run it, and the
registers the others leave alone. -/

namespace Sys2Proof.Machine

/-- Settles O34: the level is decided by the two sources, and the two sources by the four bits. -/
theorem updateIrqDrivesTheOrOfTheTwoSources : Obligations.UpdateIrqDrivesTheOrOfTheTwoSources := by
  refine ⟨fun s => ?_, fun s s' hcfg hrxie htxie hrbf htbe => ?_⟩
  · rw [← lineLevel_eq_decide]
    rfl
  · have hasserted : LineAsserted s ↔ LineAsserted s' := by
      rw [LineAsserted, hrxie, htxie, hrbf, htbe, hcfg]
    rw [updateIRQ_irq, updateIRQ_irq, Bool.eq_iff_iff, lineLevel_spec, lineLevel_spec]
    exact hasserted

/-! Which operations drive the line (R202). -/

/-- The level an event drives the line to, if it drives it. -/
def drivenLevel : Event → Option Bool
  | .irqLevel l => some l
  | _ => none

theorem drivenLevels_eq (s : State) : drivenLevels s = s.trace.filterMap drivenLevel :=
  congrArg (List.filterMap · s.trace) (funext fun e => by cases e <;> rfl)

/-- No write rule drives the line: the common procedure does, after it (R100). -/
theorem drivenLevel_writeEvents (r : Reg) (offset : Offset) (v : Word) (s : State) :
    (writeEvents r offset v s).filterMap drivenLevel = [] := by
  cases r
  case uartsr =>
    unfold writeEvents
    dsimp only
    split <;> rfl
  all_goals rfl

/-- What an operation does to the line, by whether it is one of those listed in R202. -/
inductive LineEffect (s t : State) : Bool → Prop where
  | redriven (hlevels : drivenLevels t = drivenLevels s ++ [t.irq]) (hcurrent : LineCurrent t) : LineEffect s t true
  | kept (hlevels : drivenLevels t = drivenLevels s) (hirq : t.irq = s.irq) : LineEffect s t false

theorem lineEffect_of_redriven {es : List Event} {s t : State} (hes : es.filterMap drivenLevel = [])
    (h : Redriven es s t) : LineEffect s t true := by
  obtain ⟨htrace, hcurrent⟩ := h
  refine .redriven ?_ hcurrent
  rw [drivenLevels_eq, drivenLevels_eq, htrace]
  simp [hes, drivenLevel]

theorem lineEffect_of_untouched {s t : State} (h : LineUntouched s t) : LineEffect s t false :=
  .kept (congrArg (List.filterMap _) h.1) h.2

@[simp] theorem recomputesLine_readOf (r : Reg) (size : AccessSize) (lane : Lane) :
    recomputesLine (readOf r size lane) = false := by
  cases r <;> rfl

@[simp] theorem recomputesLine_writeOf (r : Reg) (size : AccessSize) (lane : Lane) (data : Word) :
    recomputesLine (writeOf r size lane data) = true := by
  cases r <;> rfl

theorem exec_lineEffect {i : Instr} {s t : State} (h : exec i s = .next t) : LineEffect s t (recomputesLine i) := by
  induction i using instr_shapes with
  | read r size lane =>
    rw [exec_readOf_next] at h
    cases h
    rw [recomputesLine_readOf]
    exact lineEffect_of_untouched ⟨readTouch_trace s r, readTouch_irq r s⟩
  | write r size lane data =>
    rw [recomputesLine_writeOf]
    exact lineEffect_of_redriven (drivenLevel_writeEvents _ _ _ _) (writeEffect_of_exec h).redriven
  | rdInvalid size offset =>
    cases h
    exact .kept (drivenLevels_report s _ _) rfl
  | wrInvalid size offset data =>
    cases h
    exact lineEffect_of_redriven (es := [.diag .invalidRegister offset]) rfl ⟨rfl, updateIRQ_lineCurrent _⟩
  | rx b =>
    obtain ⟨t', ht', heffect⟩ := exec_rx_effect b s
    cases ht'.symm.trans h
    exact lineEffect_of_redriven rfl heffect.redriven
  | rstExit =>
    cases h
    exact .redriven (by simp [drivenLevels]) (updateIRQ_lineCurrent _)
  | postload =>
    obtain ⟨r, f, -, -, rfl⟩ := (exec_postload_next s t).1 h
    exact .redriven (drivenLevels_updateIRQ _) (updateIRQ_lineCurrent _)
  | gate | rstEnter | rstHold =>
    cases h
    exact lineEffect_of_untouched ⟨rfl, rfl⟩

/-- Settles O35: the two cases of `LineEffect`. -/
theorem lineIsRedrivenExactlyAtTheListedPoints : Obligations.LineIsRedrivenExactlyAtTheListedPoints := by
  intro i s t h
  have heffect := exec_lineEffect h
  refine ⟨fun hlisted => ?_, fun hunlisted => ?_⟩
  · rw [hlisted] at heffect
    cases heffect with
    | redriven hlevels hcurrent => exact ⟨hlevels, hcurrent⟩
  · rw [hunlisted] at heffect
    cases heffect with
    | kept hlevels hirq => exact ⟨hlevels, hirq⟩

/-- Outside a reset, an operation that does not run `UpdateIRQ()` keeps every register but LINCR1 (R202, R141). -/
theorem RegChange.kept_of_not_recomputesLine {i : Instr} {s t : State} {q : Reg} (hchange : RegChange s t q i)
    (hunlisted : recomputesLine i = false) (henter : i ≠ .rstEnter) (hhold : i ≠ .rstHold) (hq : q ≠ .lincr1) :
    reg t q = reg s q := by
  cases hchange with
  | kept i h => exact h
  | force size lane hcr1 h => exact absurd hcr1 hq
  | write r size lane data hmem heffect => simp at hunlisted
  | delivery b hmem => cases hunlisted
  | resetEnter h => exact absurd rfl henter
  | resetHold husr => exact absurd rfl hhold
  | load => cases hunlisted

/-- Settles O36: a listed operation leaves the line current; another one keeps the line and the registers it shows. -/
theorem lineStaysCurrentOutsideTheResetPhases : Obligations.LineStaysCurrentOutsideTheResetPhases := by
  intro i s t henter hhold hs h
  obtain ⟨hredriven, hkept⟩ := lineIsRedrivenExactlyAtTheListedPoints i s t h
  by_cases hlisted : recomputesLine i = true
  · exact (hredriven hlisted).2
  · have hunlisted := Bool.eq_false_iff.2 hlisted
    have hreg : ∀ q, q ≠ .lincr1 → reg t q = reg s q := fun q =>
      (exec_regChange h q).kept_of_not_recomputesLine hunlisted henter hhold
    rw [LineCurrent, (hkept hunlisted).2,
      lineAsserted_congr s t (exec_restKept h).1 (hreg .linier (by decide)) (hreg .uartsr (by decide))]
    exact hs

end Sys2Proof.Machine

/-! A read repeated (20_memory.md R69): the one read that stores stores a fixed point of itself (R141). -/

namespace Sys2Proof.Machine

/-- Levels, pushed bytes and notifications are read off the trace alone. -/
theorem outputs_eq_of_trace {s t : State} (h : t.trace = s.trace) :
    drivenLevels t = drivenLevels s ∧ sentBytes t = sentBytes s ∧ resumeCount t = resumeCount s :=
  ⟨by rw [drivenLevels, drivenLevels, h], by rw [sentBytes, sentBytes, h], by rw [resumeCount, resumeCount, h]⟩

/-- Bit 7 is in LINCR1's answer whether or not an earlier read has stored it (R141). -/
theorem readView_readTouch (r : Reg) (s : State) : readView r (reg (readTouch r s) r) = readView r (reg s r) := by
  cases r
  case lincr1 => simp [readTouch, forceLincr1, readView, cr1Force, BitVec.or_assoc]
  all_goals rfl

theorem reg_readTouch_again (r q : Reg) (s : State) :
    reg (readTouch r (readTouch r s)) q = reg (readTouch r s) q := by
  cases r
  case lincr1 =>
    by_cases hq : q = .lincr1 <;> simp [readTouch, forceLincr1, hq, BitVec.or_assoc]
  all_goals rfl

theorem readTouch_regs_answerWith (r : Reg) (s : State) (a : Answer) :
    (readTouch r (answerWith s a)).regs = (readTouch r s).regs := by
  cases r <;> rfl

/-- What a read leaves of LINCR1 (R141). -/
theorem readTouch_lincr1 (r : Reg) (s : State) :
    reg (readTouch r s) .lincr1 = reg s .lincr1 ∨
      (r = .lincr1 ∧ reg (readTouch r s) .lincr1 = reg s .lincr1 ||| 0x00000080#32) := by
  by_cases hr : r = .lincr1
  · subst hr
    exact .inr ⟨rfl, rfl⟩
  · exact .inl (by rw [readTouch_of_ne_lincr1 hr])

/-- Settles O22: a register's read stores a fixed point of its touch or nothing, and an invalid offset's read adds a
report to the trace. -/
theorem readsAreIdempotentAndNeverDriveTheLine : Obligations.ReadsAreIdempotentAndNeverDriveTheLine := by
  intro offset size s
  rcases offset_cases offset with ⟨r, hr⟩ | hinv
  · have hregs : (readTouch r (readTouch r s)).regs = (readTouch r s).regs :=
      regFile_ext _ _ fun q => reg_readTouch_again r q s
    have hrest (u : State) : (readTouch r u).cfg = u.cfg ∧ (readTouch r u).calls = u.calls := by
      obtain ⟨hcfg, hcalls, -⟩ := readTouch_kept r u
      exact ⟨hcfg, hcalls⟩
    obtain ⟨hlevels, hsent, hresumes⟩ := outputs_eq_of_trace (readTouch_trace s r)
    refine ⟨_, _, exec_readAt_valid hr size s, exec_readAt_valid hr size _, readTouch_regsKept r s, ?lincr1,
      readTouch_irq r s, hlevels, hsent, hresumes, ?answer, (readTouch_regs_answerWith r _ _).trans hregs,
      readTouch_irq r _, hrest _⟩
    case lincr1 =>
      refine (readTouch_lincr1 r s).imp_right fun ⟨hcr1, h⟩ => ⟨?_, h⟩
      rw [hr, hcr1]
      rfl
    case answer => rw [answerWith_answer, reg_answerWith, readView_readTouch, answerWith_answer]
  · exact ⟨_, _, exec_readAt_invalid hinv size s, exec_readAt_invalid hinv size _, fun _ _ => rfl, .inl rfl, rfl,
      drivenLevels_report s _ _, sentBytes_report s _ _, resumeCount_report s _ _, rfl, rfl, rfl, rfl, rfl⟩

end Sys2Proof.Machine

/-! The modes (10_state.md R52, R53, 60_exceptions.md R213): the order in which software configures the block, how a mode
is entered and left, and which operations look at LINCR1 and UARTCR. -/

namespace Sys2Proof.Machine

/-- In INIT mode a value with the UART bit is ORed in whole (R105). -/
theorem uartcrGain_of_init {v : Word} {s : State} (hinit : InitMode s) (hv : BitIn s.cfg.ucrUart v) :
    uartcrGain v s = v := by
  rw [uartcrGain, if_pos hinit, if_pos (.inr hv)]

/-- Settles O56: INIT mode holds for the second write, which so ORs in the whole value, and the flag of LINSR survives
the third. -/
theorem initSequenceConfiguresUartControl : Obligations.InitSequenceConfiguresUartControl := by
  intro s v hok hv
  obtain ⟨hinit, hlsr, -, -, -, -, -, -, hmask, -⟩ := params_ok_spec s.cfg hok
  obtain ⟨t₁, ht₁, h₁⟩ := exec_writeOf_effect .lincr1 .four 0#2 s.cfg.cr1Init s
  obtain ⟨t₂, ht₂, h₂⟩ := exec_writeOf_effect .uartcr .four 0#2 v t₁
  obtain ⟨t₃, ht₃, h₃⟩ := exec_writeOf_effect .lincr1 .four 0#2 0#32 t₂
  rw [lowPart_four] at h₁ h₂ h₃
  have hcfg₁ := h₁.restKept.1
  have hcfg₂ : t₂.cfg = s.cfg := h₂.restKept.1.trans hcfg₁
  have hcfg₃ : t₃.cfg = s.cfg := h₃.restKept.1.trans hcfg₂
  have hbit : BitIn s.cfg.cr1Init (reg t₁ .lincr1) := by
    rw [h₁.reg_lincr1, bitIn_and _ _ _ hinit]
    exact ⟨bitIn_self _ hinit, (bitIn_comm _ _).1 hmask⟩
  have hgain : uartcrGain v t₁ = v := uartcrGain_of_init (by rwa [InitMode, hcfg₁]) (by rwa [hcfg₁])
  have hucr : reg t₃ .uartcr = reg s .uartcr ||| v :=
    calc reg t₃ .uartcr = reg t₂ .uartcr := h₃.regsKept .uartcr (by decide)
      _ = reg t₁ .uartcr ||| v := by rw [h₂.reg_uartcr, hgain]
      _ = reg s .uartcr ||| v := by rw [h₁.regsKept .uartcr (by decide)]
  have hflag₁ : BitIn s.cfg.lsrInit (reg t₁ .linsr) := by
    rw [h₁.reg_linsr_of_lincr1, if_pos hbit]
    exact bitIn_self_or _ _ (isOneBit_ne_zero _ hlsr)
  have hflag₂ : BitIn s.cfg.lsrInit (reg t₂ .linsr) := h₂.regsKept .linsr (by decide) ▸ hflag₁
  refine ⟨t₁, t₂, t₃, ht₁, ht₂, ht₃, hucr, ?_, ?_, h₃.bitIn_linsr_of_lincr1 hflag₂⟩
  · rw [InitMode, h₃.reg_lincr1]
    simp [BitIn]
  · rw [UartModeOn, hcfg₃, hucr, bitIn_or]
    exact .inr hv

/-! How a mode is entered and left: what an operation does to LINCR1 and UARTCR. -/

/-- A register that only its own write stores to is kept by every other operation but reset enter, a post-load and, for
LINCR1, its read. -/
theorem RegChange.kept_of_no_writer {i : Instr} {s t : State} {q : Reg} (hchange : RegChange s t q i)
    (hown : q ∉ [Reg.linsr, .uartsr, .bdrm]) (hread : q = .lincr1 → ∀ size lane, i ≠ .rdLincr1 size lane)
    (hwrite : ∀ size lane data, i ≠ writeOf q size lane data) (henter : i ≠ .rstEnter) (hload : i ≠ .postload) :
    reg t q = reg s q := by
  obtain ⟨hlsr, husr, hbdrm⟩ : q ≠ .linsr ∧ q ≠ .uartsr ∧ q ≠ .bdrm := by simpa using hown
  cases hchange with
  | kept i h => exact h
  | force size lane hq h => exact absurd rfl (hread hq size lane)
  | write r size lane data hq heffect =>
    obtain rfl := eq_of_mem_writtenRegs hlsr husr hq
    exact absurd rfl (hwrite size lane data)
  | delivery b hq => simp [hbdrm, husr] at hq
  | resetEnter h => exact absurd rfl henter
  | resetHold hq => exact absurd hq husr
  | load => exact absurd rfl hload

/-- The forced bit 7 is not the INIT bit (R10), so a read leaves INIT mode as it was. -/
theorem initMode_of_forced {s t : State} (hok : s.cfg.ok = true) (hcfg : t.cfg = s.cfg)
    (h : reg t .lincr1 = reg s .lincr1 ||| 0x00000080#32) : InitMode t ↔ InitMode s := by
  obtain ⟨hinit, -, -, -, -, -, -, -, -, hforce, -⟩ := params_ok_spec s.cfg hok
  rw [InitMode, hcfg, h, bitIn_or]
  exact or_iff_left (bitIn_other _ _ hinit (by decide) hforce)

/-- Only a LINCR1 write enters or leaves INIT mode outside a reset and a post-load (R213). -/
theorem exec_initMode_iff {i : Instr} {s t : State} (hok : s.cfg.ok = true) (henter : i ≠ .rstEnter)
    (hload : i ≠ .postload) (hwrite : ∀ size lane data, i ≠ .wrLincr1 size lane data) (h : exec i s = .next t) :
    InitMode t ↔ InitMode s := by
  obtain ⟨hcfg, -⟩ := exec_restKept h
  have hchange := exec_regChange h .lincr1
  by_cases hread : ∃ size lane, i = .rdLincr1 size lane
  · obtain ⟨size, lane, rfl⟩ := hread
    cases h
    exact initMode_of_forced hok hcfg rfl
  · have hkept := hchange.kept_of_no_writer (by decide) (fun _ size lane hi => hread ⟨size, lane, hi⟩)
      hwrite henter hload
    rw [InitMode, hcfg, hkept]

/-- UART mode, once on, stays (R105). -/
theorem exec_uartMode_stays {i : Instr} {s t : State} (henter : i ≠ .rstEnter) (hload : i ≠ .postload)
    (h : exec i s = .next t) (hs : UartModeOn s) : UartModeOn t := by
  obtain ⟨gain, hgain⟩ := exec_uartcr_gains henter hload h
  rw [UartModeOn, (exec_restKept h).1, hgain, bitIn_or]
  exact .inl hs

/-- What a UARTCR write gains turns UART mode on only in INIT mode, by the value's own UART bit (R105). -/
theorem bitIn_uartcrGain {v : Word} {s : State} (hs : ¬ UartModeOn s) :
    BitIn s.cfg.ucrUart (uartcrGain v s) ↔ InitMode s ∧ BitIn s.cfg.ucrUart v := by
  have hzero : ¬ BitIn s.cfg.ucrUart 0#32 := by simp [BitIn]
  unfold uartcrGain
  by_cases hinit : InitMode s
  · by_cases hv : BitIn s.cfg.ucrUart v
    · simp only [if_pos hinit, if_pos (Or.inr hv)]
      tauto
    · simp only [if_pos hinit, if_neg (not_or.2 ⟨hs, hv⟩)]
      tauto
  · simp only [if_neg hinit, if_neg hs]
    tauto

theorem WriteEffect.uartMode_iff {offset : Offset} {v : Word} {s t : State} (h : WriteEffect .uartcr offset v s t) :
    UartModeOn t ↔ UartModeOn s ∨ (InitMode s ∧ BitIn s.cfg.ucrUart v) := by
  by_cases hs : UartModeOn s
  · rw [UartModeOn, h.restKept.1, h.reg_uartcr, bitIn_or]
    tauto
  · rw [UartModeOn, h.restKept.1, h.reg_uartcr, bitIn_or, bitIn_uartcrGain hs]

/-- Outside a reset and a post-load only a UARTCR write turns UART mode on (R213). -/
theorem exec_uartMode_rises {i : Instr} {s t : State} (henter : i ≠ .rstEnter) (hload : i ≠ .postload)
    (h : exec i s = .next t) (hs : ¬ UartModeOn s) (ht : UartModeOn t) :
    ∃ size lane data, i = .wrUartcr size lane data ∧ InitMode s ∧ BitIn s.cfg.ucrUart (lowPart size data) := by
  by_cases hwrite : ∃ size lane data, i = .wrUartcr size lane data
  · obtain ⟨size, lane, data, rfl⟩ := hwrite
    have heffect := writeEffect_of_exec (r := .uartcr) h
    exact ⟨size, lane, data, rfl, (heffect.uartMode_iff.1 ht).resolve_left hs⟩
  · have hkept := (exec_regChange h .uartcr).kept_of_no_writer (by decide) nofun
      (fun size lane data hi => hwrite ⟨size, lane, data, hi⟩) henter hload
    rw [UartModeOn, (exec_restKept h).1, hkept] at ht
    exact absurd ht hs

/-! The same operation from two states that differ in one register (R213, R178). -/

/-- Two states alike in all but one register and the last answer. -/
structure AlikeBut (q : Reg) (s t : State) : Prop where
  regsKept : RegsKept [q] s t
  irq : t.irq = s.irq
  trace : t.trace = s.trace
  restKept : RestKept s t

theorem alikeBut_setReg (s : State) (q : Reg) (a : Word) : AlikeBut q s (setReg s q a) where
  regsKept p hp := by simp [List.mem_singleton.not.1 hp]
  irq := rfl
  trace := rfl
  restKept := ⟨rfl, rfl, rfl, rfl⟩

section
variable {q : Reg} {s t : State}

theorem AlikeBut.reg_eq (h : AlikeBut q s t) {p : Reg} (hp : p ≠ q) : reg t p = reg s p :=
  h.regsKept p (List.mem_singleton.not.2 hp)

theorem AlikeBut.answerWith (h : AlikeBut q s t) (a b : Answer) : AlikeBut q (answerWith s a) (answerWith t b) :=
  ⟨h.regsKept, h.irq, h.trace, h.restKept⟩

theorem AlikeBut.emit (h : AlikeBut q s t) (e : Event) : AlikeBut q (emit s e) (emit t e) :=
  ⟨h.regsKept, h.irq, congrArg (· ++ [e]) h.trace, h.restKept⟩

theorem AlikeBut.setReg (h : AlikeBut q s t) (r : Reg) {a b : Word} (hab : r ≠ q → b = a) :
    AlikeBut q (setReg s r a) (setReg t r b) where
  regsKept p hp := by
    by_cases hr : p = r
    · subst hr
      simp [hab (List.mem_singleton.not.1 hp)]
    · simp [hr, h.regsKept p hp]
  irq := h.irq
  trace := h.trace
  restKept := h.restKept

theorem AlikeBut.loadRegs (h : AlikeBut q s t) (f : RegFile) : AlikeBut q (loadRegs s f) (loadRegs t f) :=
  ⟨fun _ _ => rfl, h.irq, h.trace, h.restKept⟩

/-- `UpdateIRQ()` looks at LINIER and UARTSR (R200). -/
theorem AlikeBut.updateIRQ (h : AlikeBut q s t) (hier : .linier ≠ q) (husr : .uartsr ≠ q) :
    AlikeBut q (updateIRQ s) (updateIRQ t) := by
  have hlevel : lineLevel t = lineLevel s := by
    rw [Bool.eq_iff_iff, lineLevel_spec, lineLevel_spec]
    exact lineAsserted_congr s t h.restKept.1 (h.reg_eq hier) (h.reg_eq husr)
  exact ⟨h.regsKept, hlevel, by simp [h.trace, hlevel], h.restKept⟩

/-- A read's touch looks at LINCR1, which it writes (R141). -/
theorem AlikeBut.readTouch (h : AlikeBut q s t) (r : Reg) : AlikeBut q (readTouch r s) (readTouch r t) := by
  cases r
  case lincr1 => exact h.setReg .lincr1 fun hcr1 => by rw [h.reg_eq hcr1]
  all_goals exact h

/-- The gate looks at UARTSR (R171). -/
theorem AlikeBut.gateClosed_iff (h : AlikeBut q s t) (husr : .uartsr ≠ q) : GateClosed t ↔ GateClosed s := by
  rw [GateClosed, h.restKept.1, h.reg_eq husr]

/-- A delivery looks at the two registers it writes (R172). -/
theorem AlikeBut.deliver (h : AlikeBut q s t) (b : Byte) : AlikeBut q (deliver b s) (deliver b t) := by
  refine (h.setReg .bdrm fun hbdrm => ?_).setReg .uartsr fun husr => ?_
  · rw [h.reg_eq hbdrm]
  · simp [h.restKept.1, h.reg_eq husr]

/-- Whether the flag of LINSR is set depends on the value written (R101). -/
theorem AlikeBut.writeLincr1 (h : AlikeBut q s t) (v : Word) : AlikeBut q (writeLincr1 v s) (writeLincr1 v t) := by
  have hstored := h.setReg .lincr1 (a := v &&& cr1WMask) fun _ => rfl
  unfold Machine.writeLincr1
  simp only [reg_setReg, setReg_cfg, h.restKept.1, if_true]
  split
  · refine hstored.setReg .linsr fun hlsr => ?_
    simp [h.reg_eq hlsr]
  · exact hstored

/-- A UARTSR write looks at UARTSR: for the flags it acknowledges, and for those it leaves (R106). -/
theorem AlikeBut.writeUartsr (h : AlikeBut q s t) (husr : .uartsr ≠ q) (v : Word) :
    AlikeBut q (writeUartsr v s) (writeUartsr v t) := by
  have hack (clear : Word) : acknowledgesReceive clear t = acknowledgesReceive clear s := by
    rw [Bool.eq_iff_iff, acknowledgesReceive_spec, acknowledgesReceive_spec, h.restKept.1, h.reg_eq husr]
  unfold Machine.writeUartsr
  simp only [hack]
  split
  · exact (h.emit .resume).setReg .uartsr fun _ => by simp [h.reg_eq husr]
  · exact h.setReg .uartsr fun _ => by rw [h.reg_eq husr]

/-- Of the write rules only UARTCR's looks at a register it does not write: LINCR1, for the INIT mode (R105). -/
theorem AlikeBut.writeRule (h : AlikeBut q s t) {r : Reg} (hr : r ≠ .uartcr) (husr : .uartsr ≠ q) (offset : Offset)
    (v : Word) : AlikeBut q (writeRule r offset v s) (writeRule r offset v t) := by
  cases r
  case uartcr => exact absurd rfl hr
  case lincr1 => exact h.writeLincr1 v
  case uartsr => exact h.writeUartsr husr v
  case bdrl =>
    refine ((h.setReg .bdrl fun _ => rfl).emit _).setReg .uartsr fun husr => ?_
    simp [h.restKept.1, h.reg_eq husr]
  case linier => exact h.setReg .linier fun _ => rfl
  all_goals exact (h.setReg _ fun _ => rfl).emit _

/-- Every operation but a UARTCR write keeps two such states alike, and answers the same unless it is a read of that
register (R213). -/
theorem AlikeBut.exec_next {i : Instr} {s' : State} (halike : AlikeBut q s s') (hier : .linier ≠ q) (husr : .uartsr ≠ q)
    (hwrite : ∀ size lane data, i ≠ .wrUartcr size lane data) (h : exec i s = .next t) :
    ∃ t', exec i s' = .next t' ∧ AlikeBut q t t' ∧
      ((∀ size lane, i ≠ readOf q size lane) → t'.answer = t.answer) := by
  have hnothing := halike.answerWith .nothing .nothing
  induction i using instr_shapes with
  | read r size lane =>
    rw [exec_readOf_next] at h
    cases h
    refine ⟨_, exec_readOf_next r size lane s', (halike.readTouch r).answerWith _ _, fun hread => ?_⟩
    have hr : r ≠ q := by
      rintro rfl
      exact hread size lane rfl
    simp [halike.reg_eq hr]
  | write r size lane data =>
    have hr : r ≠ .uartcr := by
      rintro rfl
      exact hwrite size lane data rfl
    have hanswer := (writeEffect_of_exec h).answer
    obtain ⟨t', ht', heffect⟩ := exec_writeOf_effect r size lane data s'
    refine ⟨t', ht', ?_, fun _ => heffect.answer.trans hanswer.symm⟩
    rw [exec_writeOf] at h ht'
    cases h
    cases ht'
    exact (hnothing.writeRule hr husr _ _).updateIRQ hier husr
  | rdInvalid size offset =>
    cases h
    exact ⟨_, rfl, (halike.emit _).answerWith _ _, fun _ => rfl⟩
  | wrInvalid size offset data =>
    cases h
    exact ⟨_, rfl, (hnothing.emit _).updateIRQ hier husr, fun _ => rfl⟩
  | gate =>
    rw [exec_gate] at h
    cases h
    refine ⟨_, exec_gate s', halike.answerWith _ _, fun _ => ?_⟩
    simp only [answerWith_answer, halike.gateClosed_iff husr]
  | rx b =>
    cases h
    exact ⟨_, rfl, (hnothing.deliver b).updateIRQ hier husr, fun _ => rfl⟩
  | rstEnter =>
    cases h
    exact ⟨_, rfl, (hnothing.loadRegs _).loadRegs _, fun _ => rfl⟩
  | rstHold =>
    cases h
    refine ⟨_, rfl, hnothing.setReg .uartsr fun _ => ?_, fun _ => rfl⟩
    rw [halike.reg_eq husr, halike.restKept.1]
  | rstExit =>
    cases h
    exact ⟨_, rfl, (hnothing.updateIRQ hier husr).emit .resume, fun _ => rfl⟩
  | postload =>
    obtain ⟨r, f, hrecord, hregs, rfl⟩ := (exec_postload_next s t).1 h
    obtain ⟨hcfg, -, hrecord', -⟩ := halike.restKept
    exact ⟨_, (exec_postload_next s' _).2 ⟨r, f, hrecord'.trans hrecord, hcfg ▸ hregs, rfl⟩,
      (hnothing.loadRegs f).updateIRQ hier husr, fun _ => rfl⟩

end

/-- Reset enter and a post-load store every register, whatever they held (R231, R235). -/
theorem AlikeBut.reg_eq_of_load {q : Reg} {i : Instr} {s s' t t' : State} (halike : AlikeBut q s s')
    (hi : i = .rstEnter ∨ i = .postload) (h : exec i s = .next t) (h' : exec i s' = .next t') (p : Reg) :
    reg t' p = reg t p := by
  rcases hi with rfl | rfl
  · cases h
    cases h'
    rfl
  · obtain ⟨r, f, hrecord, hregs, rfl⟩ := (exec_postload_next s t).1 h
    obtain ⟨r', f', hrecord', hregs', rfl⟩ := (exec_postload_next s' t').1 h'
    obtain ⟨hcfg, -, hsame, -⟩ := halike.restKept
    obtain rfl : r' = r := Option.some.inj (hrecord'.symm.trans (hsame.trans hrecord))
    obtain rfl : f' = f := Option.some.inj (hregs'.symm.trans (hcfg ▸ hregs))
    rfl

/-- Settles O42: the modes follow the LINCR1 and the UARTCR writes; an operation run with one register replaced ends
alike in all but that register, which holds the new word, what its own read or write leaves, or what a load gives. -/
theorem modesAreEnteredAndLeftOnlyAsDescribed : Obligations.ModesAreEnteredAndLeftOnlyAsDescribed := by
  refine ⟨fun i s t hok henter hload h => ?modes, fun i s t a hwrite h => ?lincr1, fun i s t b hwrite h => ?uartcr⟩
  case modes =>
    refine ⟨fun hwrite => exec_initMode_iff hok henter hload hwrite h, ?_, exec_uartMode_stays henter hload h, ?_,
      exec_uartMode_rises henter hload h⟩
    · rintro size lane data rfl
      have heffect := writeEffect_of_exec (r := .lincr1) h
      rw [InitMode, heffect.restKept.1, heffect.reg_lincr1]
    · rintro size lane data rfl hinit hv
      exact (writeEffect_of_exec (r := .uartcr) h).uartMode_iff.2 (.inr ⟨hinit, hv⟩)
  case lincr1 =>
    have hstart := alikeBut_setReg s .lincr1 a
    obtain ⟨t', h', halike, hanswer⟩ := hstart.exec_next (by decide) (by decide) hwrite h
    refine ⟨t', h', halike.regsKept, halike.irq, halike.trace, halike.restKept, ?_, ?_, ?_, hanswer⟩
    · rintro (⟨size, lane, data, rfl⟩ | hi)
      · rw [(writeEffect_of_exec (r := .lincr1) h').reg_lincr1, (writeEffect_of_exec (r := .lincr1) h).reg_lincr1]
      · exact hstart.reg_eq_of_load hi h h' .lincr1
    · rintro size lane rfl
      cases (exec_readOf_next .lincr1 size lane (setReg s .lincr1 a)).symm.trans h'
      simp [readTouch, forceLincr1, readView, cr1Force]
    · intro hown henter hload hread
      have hkept := (exec_regChange h' .lincr1).kept_of_no_writer (by decide) (fun _ => hread) hown henter
        hload
      simpa using hkept
  case uartcr =>
    have hstart := alikeBut_setReg s .uartcr b
    obtain ⟨t', h', halike, hanswer⟩ := hstart.exec_next (by decide) (by decide) hwrite h
    refine ⟨t', h', halike.regsKept, halike.irq, halike.trace, halike.restKept,
      fun hi => hstart.reg_eq_of_load hi h h' .uartcr, ?_, ?_, hanswer⟩
    · intro henter hload
      have hkept := (exec_regChange h' .uartcr).kept_of_no_writer (by decide) nofun hwrite henter hload
      simpa using hkept
    · rintro size lane rfl
      cases (exec_readOf_next .uartcr size lane (setReg s .uartcr b)).symm.trans h'
      simp [readView]

end Sys2Proof.Machine

/-! The reset phases and post-load (70_reset_and_hazards.md R230 to R236): what each phase leaves in the registers and
on the line, how the step moves a reset from phase to phase, and what a record gives. -/

namespace Sys2Proof.Machine

/-! The power-on column (10_state.md R21) and the two register contents a reset passes through. -/

theorem powerOn_of_mem_powerOnTable : ∀ p ∈ powerOnTable, powerOn p.1 = p.2 := by
  decide

theorem mem_powerOnTable (q : Reg) : (q, powerOn q) ∈ powerOnTable := by
  cases q <;> decide

/-- A claim about every row of the power-on column is one about every register. -/
theorem forall_powerOnTable_iff {P : Reg → Word → Prop} :
    (∀ p ∈ powerOnTable, P p.1 p.2) ↔ ∀ q, P q (powerOn q) :=
  ⟨fun h q => h _ (mem_powerOnTable q), fun h p hp => powerOn_of_mem_powerOnTable p hp ▸ h p.1⟩

/-- The registers as reset enter leaves them (R231). -/
abbrev AtPowerOn (s : State) : Prop :=
  ∀ q, reg s q = powerOn q

/-- The registers as reset hold, and with it the whole reset, leaves them (R232, R234). -/
abbrev AtReset (s : State) : Prop :=
  ∀ q, reg s q = if q = .uartsr then s.cfg.usrTbe else powerOn q

theorem atPowerOn_iff_table (s : State) : (∀ p ∈ powerOnTable, reg s p.1 = p.2) ↔ AtPowerOn s :=
  forall_powerOnTable_iff (P := fun q v => reg s q = v)

theorem atReset_iff_table (s : State) :
    (∀ p ∈ powerOnTable, reg s p.1 = if p.1 = .uartsr then s.cfg.usrTbe else p.2) ↔ AtReset s :=
  forall_powerOnTable_iff (P := fun q v => reg s q = if q = .uartsr then s.cfg.usrTbe else v)

/-! What each phase does. -/

section
variable {s t : State}

theorem exec_rstEnter_atPowerOn (h : exec .rstEnter s = .next t) : AtPowerOn t := by
  cases h
  exact fileGet_fileOf powerOn

theorem exec_rstHold_reg (h : exec .rstHold s = .next t) (q : Reg) :
    reg t q = if q = .uartsr then reg s .uartsr ||| s.cfg.usrTbe else reg s q := by
  cases h
  exact reg_setReg _ .uartsr q _

theorem exec_rstHold_atReset (h : exec .rstHold s = .next t) (hs : AtPowerOn s) : AtReset t := by
  intro q
  rw [exec_rstHold_reg h, (exec_restKept h).1, hs, hs]
  simp [powerOn]

theorem exec_rstExit_reg (h : exec .rstExit s = .next t) (q : Reg) : reg t q = reg s q := by
  cases h
  rfl

theorem exec_rstExit_lineCurrent (h : exec .rstExit s = .next t) : LineCurrent t := by
  cases h
  exact updateIRQ_lineCurrent _

theorem exec_rstExit_trace (h : exec .rstExit s = .next t) : t.trace = s.trace ++ [.irqLevel t.irq, .resume] := by
  cases h
  simp

theorem exec_rstExit_atReset (h : exec .rstExit s = .next t) (hs : AtReset s) : AtReset t := by
  intro q
  rw [exec_rstExit_reg h, (exec_restKept h).1]
  exact hs q

/-- Reset exit from registers that do not assert the line (R233, R200). -/
theorem exec_rstExit_of_quiet (hquiet : ¬ LineAsserted s) :
    exec .rstExit s =
      .next { s with irq := false, trace := s.trace ++ [.irqLevel false, .resume], answer := .nothing } := by
  have hlevel : lineLevel (answerWith s .nothing) = false :=
    Bool.eq_false_iff.2 fun h => hquiet ((lineLevel_spec _).1 h)
  change Host.Outcome.next (emit (updateIRQ (answerWith s .nothing)) .resume) = _
  rw [updateIRQ, hlevel]
  simp [emit, driveLine, answerWith]

end

/-- Settles O48: the registers are `exec_rstEnter_atPowerOn`. -/
theorem resetEnterGivesThePowerOnValues : Obligations.ResetEnterGivesThePowerOnValues :=
  ⟨rfl, fun s => ⟨_, rfl, (atPowerOn_iff_table _).2 (exec_rstEnter_atPowerOn (s := s) rfl), ⟨rfl, rfl⟩, rfl,
    exec_restKept (i := .rstEnter) rfl⟩⟩

/-- Settles O49: the registers are `exec_rstHold_reg`. -/
theorem resetHoldSetsTransmitBufferEmpty : Obligations.ResetHoldSetsTransmitBufferEmpty := by
  refine ⟨rfl, fun s => ?_⟩
  obtain ⟨t, h⟩ := exec_completes (i := .rstHold) nofun s
  have hreg := exec_rstHold_reg h
  have hrest := exec_restKept h
  refine ⟨t, h, hreg .uartsr, fun q hq => (hreg q).trans (if_neg (List.mem_singleton.not.1 hq)), ?_, ?_, hrest⟩
  · cases h
    exact ⟨rfl, rfl⟩
  · cases h
    rfl

/-- Settles O50: the registers stay, the line is current and the two events come in order. -/
theorem resetExitDrivesTheLineThenNotifies : Obligations.ResetExitDrivesTheLineThenNotifies := by
  refine ⟨rfl, fun s => ?_⟩
  obtain ⟨t, h⟩ := exec_completes (i := .rstExit) nofun s
  refine ⟨t, h, fun q _ => exec_rstExit_reg h q, exec_rstExit_lineCurrent h, exec_rstExit_trace h, ?_, exec_restKept h⟩
  cases h
  rfl

/-! What the registers after a reset say of the line, the modes and the gate (R234). -/

section
variable {s : State}

theorem AtReset.not_lineAsserted (hs : AtReset s) : ¬ LineAsserted s := by
  have hlinier : reg s .linier = 0#32 := hs .linier
  simp [LineAsserted, hlinier]

theorem AtReset.not_uartModeOn (hs : AtReset s) : ¬ UartModeOn s := by
  have huartcr : reg s .uartcr = 0#32 := hs .uartcr
  simp [UartModeOn, huartcr]

/-- The one flag set is no receive flag (R10). -/
theorem AtReset.not_gateClosed (hs : AtReset s) (hok : s.cfg.ok = true) : ¬ GateClosed s := by
  have huartsr : reg s .uartsr = s.cfg.usrTbe := hs .uartsr
  obtain ⟨-, -, -, hrbf, hrmb, htbe, -, -, -, -, -, hrbfTbe, hrmbTbe, -⟩ := params_ok_spec s.cfg hok
  rw [GateClosed, huartsr]
  exact not_or.2 ⟨bitIn_other _ _ hrbf htbe hrbfTbe, bitIn_other _ _ hrmb htbe hrmbTbe⟩

/-- LINCR1 powers on with bits 7 and 1, and R10 keeps the INIT bit off bit 7. -/
theorem AtReset.not_initMode (hs : AtReset s) (hok : s.cfg.ok = true) (hne : s.cfg.cr1Init ≠ 0x00000002#32) :
    ¬ InitMode s := by
  have hlincr1 : reg s .lincr1 = 0x00000080#32 ||| 0x00000002#32 := hs .lincr1
  obtain ⟨hinit, -, -, -, -, -, -, -, -, hforce, -⟩ := params_ok_spec s.cfg hok
  rw [InitMode, hlincr1, bitIn_or]
  exact not_or.2 ⟨bitIn_other _ _ hinit (by decide) hforce, bitIn_other _ _ hinit (by decide) hne⟩

end

/-- Settles O51: the three phases leave `AtReset`, whose registers do not assert the line. -/
theorem completeResetFromAnyStateLeavesTheStatedState : Obligations.CompleteResetFromAnyStateLeavesTheStatedState := by
  have hdefault : defaultParams.ok = true := by decide
  refine ⟨fun s => ?_, hdefault⟩
  obtain ⟨t₁, henter⟩ := exec_completes (i := .rstEnter) nofun s
  obtain ⟨t₂, hhold⟩ := exec_completes (i := .rstHold) nofun t₁
  obtain ⟨t₃, hexit⟩ := exec_completes (i := .rstExit) nofun t₂
  have hpower : AtPowerOn t₁ := exec_rstEnter_atPowerOn henter
  have hheld : AtReset t₂ := exec_rstHold_atReset hhold hpower
  have hreset : AtReset t₃ := exec_rstExit_atReset hexit hheld
  have hcfg : t₃.cfg = s.cfg :=
    (exec_restKept hexit).1.trans ((exec_restKept hhold).1.trans (exec_restKept henter).1)
  have hirq : t₃.irq = false :=
    Bool.eq_false_iff.2 fun h => hreset.not_lineAsserted ((exec_rstExit_lineCurrent hexit).1 h)
  have hsilent : t₂.trace = s.trace := by
    cases henter
    cases hhold
    rfl
  have htrace : t₃.trace = s.trace ++ [.irqLevel false, .resume] := by
    rw [exec_rstExit_trace hexit, hirq, hsilent]
  rw [← hcfg]
  refine ⟨t₁, t₂, t₃, henter, hhold, hexit, (atReset_iff_table t₃).2 hreset, hirq, htrace, hreset.not_uartModeOn,
    fun hok => ⟨hreset.not_gateClosed hok, hreset.not_initMode hok⟩, fun hparams => ⟨?_, ?_⟩⟩
  · rw [hreset .uartsr, hparams]
    rfl
  · refine hreset.not_initMode ?_ ?_ <;> rw [hparams]
    · exact hdefault
    · decide

/-- Settles O52: after enter and hold the line is not asserted, and reset exit from there is written out in
`exec_rstExit_of_quiet`. -/
theorem resetStateIsTheCompleteResetOfAConstructedState :
    Obligations.ResetStateIsTheCompleteResetOfAConstructedState := by
  intro cfg f l
  obtain ⟨t₁, henter⟩ := exec_completes (i := .rstEnter) nofun (State.constructed cfg f l)
  obtain ⟨t₂, hhold⟩ := exec_completes (i := .rstHold) nofun t₁
  have hquiet : ¬ LineAsserted t₂ :=
    (exec_rstHold_atReset hhold (exec_rstEnter_atPowerOn henter)).not_lineAsserted
  refine ⟨t₁, t₂, henter, hhold, (exec_rstExit_of_quiet hquiet).trans ?_⟩
  cases henter
  cases hhold
  rfl

/-- Settles O38: the reset state is what reset exit leaves of some state, and `UpdateIRQ()` is the last thing a
post-load does. -/
theorem resetAndPostloadMakeTheLineCurrent : Obligations.ResetAndPostloadMakeTheLineCurrent := by
  refine ⟨fun cfg => ⟨rfl, ?_⟩, fun s => ?_, fun s t h => ?_⟩
  · obtain ⟨_, _, -, -, hexit⟩ := resetStateIsTheCompleteResetOfAConstructedState cfg (fileOf powerOn) false
    exact exec_rstExit_lineCurrent hexit
  · obtain ⟨t, h⟩ := exec_completes (i := .rstExit) nofun s
    exact ⟨t, h, exec_rstExit_lineCurrent h⟩
  · obtain ⟨r, f, -, -, rfl⟩ := (exec_postload_next s t).1 h
    exact updateIRQ_lineCurrent _

/-! The order of a reset (R230). -/

/-- The moves of a reset: the three phases, and every other operation outside them. -/
inductive ResetMove : ResetPhase → Instr → ResetPhase → Prop where
  | enter : ResetMove .running .rstEnter .entered
  | hold : ResetMove .entered .rstHold .held
  | exit : ResetMove .held .rstExit .running
  | outside {i : Instr} (henter : i ≠ .rstEnter) (hhold : i ≠ .rstHold) (hexit : i ≠ .rstExit) :
      ResetMove .running i .running

theorem resetMove_iff (ph ph' : ResetPhase) (i : Instr) : phaseAfter ph i = some ph' ↔ ResetMove ph i ph' := by
  rw [phaseAfter_spec]
  constructor
  · rintro ⟨rfl, rfl⟩
    by_cases henter : i = .rstEnter
    · subst henter
      exact .enter
    by_cases hhold : i = .rstHold
    · subst hhold
      exact .hold
    by_cases hexit : i = .rstExit
    · subst hexit
      exact .exit
    · rw [(phaseBefore_eq_running_iff i).2 (not_or.2 ⟨hhold, hexit⟩), if_neg henter, if_neg hhold]
      exact .outside henter hhold hexit
  · intro h
    cases h with
    | enter | hold | exit => exact ⟨rfl, rfl⟩
    | outside henter hhold hexit =>
      rw [(phaseBefore_eq_running_iff i).2 (not_or.2 ⟨hhold, hexit⟩), if_neg henter, if_neg hhold]
      exact ⟨rfl, rfl⟩

section
variable {s t : State}

theorem phaseSafe_running_iff (h : s.phase = .running) : PhaseSafe s ↔ LineCurrent s := by
  rw [PhaseSafe, h]

theorem phaseSafe_entered_iff (h : s.phase = .entered) : PhaseSafe s ↔ AtPowerOn s := by
  rw [PhaseSafe, h]
  exact atPowerOn_iff_table s

theorem phaseSafe_held_iff (h : s.phase = .held) : PhaseSafe s ↔ AtReset s := by
  rw [PhaseSafe, h]
  exact atReset_iff_table s

/-- An operation run in the order of a reset keeps the condition of the phase, whatever call it was taken from. -/
theorem exec_phaseSafe {i : Instr} {c : Call} {rest : List Call} {ph ph' : ResetPhase} (hphase : s.phase = ph)
    (hmove : ResetMove ph i ph') (hs : PhaseSafe s) (h : exec i (takeCall s c rest ph') = .next t) : PhaseSafe t := by
  obtain ⟨-, -, -, hphase'⟩ := exec_restKept h
  cases hmove with
  | enter => exact (phaseSafe_entered_iff hphase').2 (exec_rstEnter_atPowerOn h)
  | hold =>
    have hregs : AtPowerOn s := (phaseSafe_entered_iff hphase).1 hs
    exact (phaseSafe_held_iff hphase').2 (exec_rstHold_atReset h hregs)
  | exit => exact (phaseSafe_running_iff hphase').2 (exec_rstExit_lineCurrent h)
  | outside henter hhold hexit =>
    have hcurrent : LineCurrent (takeCall s c rest .running) := (phaseSafe_running_iff hphase).1 hs
    exact (phaseSafe_running_iff hphase').2 (lineStaysCurrentOutsideTheResetPhases i _ t henter hhold hcurrent h)

end

/-- Settles O37: a step idles or runs one operation in the order of a reset, `exec_phaseSafe`. -/
theorem lineIsCurrentBetweenOperationsOfADisciplinedRun :
    Obligations.LineIsCurrentBetweenOperationsOfADisciplinedRun := by
  intro s t hs hstep
  rcases step_next_cases s t hstep with ⟨-, rfl⟩ | ⟨c, rest, i, ph, -, -, horder, -, hexec⟩
  · exact hs
  · exact exec_phaseSafe rfl ((resetMove_iff _ _ _).1 horder) hs hexec

section
variable {s t : State} {c : Call} {rest : List Call} {i : Instr}

/-- The step of the first call, if it answers next, is a move of the reset. -/
theorem step_resetMove (hcalls : s.calls = c :: rest) (hdecode : decode c.w c.d = .ok i) (h : step s = .next t) :
    ResetMove s.phase i t.phase := by
  rcases step_next_cases s t h with ⟨hidle, -⟩ | ⟨c', rest', i', ph, hcalls', hdecode', horder, -, hexec⟩
  · cases hcalls.symm.trans hidle
  · cases hcalls.symm.trans hcalls'
    cases hdecode.symm.trans hdecode'
    obtain ⟨-, -, -, hphase⟩ := exec_restKept hexec
    rw [hphase]
    exact (resetMove_iff _ _ _).1 horder

/-- No bus and no gate stands before a phase of a reset: called in order, it runs. -/
theorem step_of_resetCall (hcalls : s.calls = c :: rest) (hdecode : decode c.w c.d = .ok i) {ph ph' : ResetPhase}
    (hphase : s.phase = ph) (hmove : ResetMove ph i ph') (hreset : i = .rstEnter ∨ i = .rstHold ∨ i = .rstExit) :
    ∃ t, step s = .next t ∧ exec i (takeCall s c rest ph') = .next t ∧ t.phase = ph' ∧ t.calls = rest := by
  subst hphase
  have hpermitted : notPermitted i s = none := by
    rcases hreset with rfl | rfl | rfl <;> rfl
  have hload : i ≠ .postload := by
    rintro rfl
    simp at hreset
  obtain ⟨t, hexec⟩ := exec_completes hload (takeCall s c rest ph')
  obtain ⟨-, hcalls', -, hphase'⟩ := exec_restKept hexec
  have hstep := stepRunsTheDecodedCall s c rest i ph' hcalls hdecode ((resetMove_iff _ _ _).2 hmove) hpermitted
  exact ⟨t, hstep.trans hexec, hexec, hphase', hcalls'⟩

end

/-- Settles O59: a call in order is a `ResetMove` and one out of order none; three pending phases run one after
another and leave the registers of a whole reset. -/
theorem resetPhasesRunInOrderWithNothingBetween : Obligations.ResetPhasesRunInOrderWithNothingBetween := by
  refine ⟨fun s c rest i hcalls hdecode => ?calls, fun s c₁ c₂ c₃ rest hphase hcalls hdecode₁ hdecode₂ hdecode₃ => ?run⟩
  case calls =>
    have hbroken := fun horder => step_of_order_broken hcalls hdecode ((phaseAfter_eq_none_cases s.phase i).2 horder)
    have hruns {ph ph' : ResetPhase} (hphase : s.phase = ph) (hmove : ResetMove ph i ph')
        (hreset : i = .rstEnter ∨ i = .rstHold ∨ i = .rstExit) :
        ∃ t, step s = .next t ∧ t.phase = ph' ∧ t.calls = rest :=
      (step_of_resetCall hcalls hdecode hphase hmove hreset).imp fun _ ⟨hstep, _, hafter⟩ => ⟨hstep, hafter⟩
    refine ⟨fun hphase hi => hbroken (.inl ⟨hphase, hi⟩), fun hphase hi => hbroken (.inr (.inl ⟨hphase, hi⟩)),
      fun hphase hi => hbroken (.inr (.inr ⟨hphase, hi⟩)), fun hphase hi => hruns hphase (hi ▸ .enter) (.inl hi),
      fun hphase hi => hruns hphase (hi ▸ .hold) (.inr (.inl hi)),
      fun hphase hi => hruns hphase (hi ▸ .exit) (.inr (.inr hi)), fun t hphase hi h => ?_⟩
    have hmove := step_resetMove hcalls hdecode h
    rw [hphase] at hmove
    generalize t.phase = ph at hmove ⊢
    cases hmove with
    | enter => exact absurd rfl hi
    | outside => rfl
  case run =>
    obtain ⟨t₁, hstep₁, henter, hphase₁, hcalls₁⟩ := step_of_resetCall hcalls hdecode₁ hphase .enter (.inl rfl)
    obtain ⟨t₂, hstep₂, hhold, hphase₂, hcalls₂⟩ := step_of_resetCall hcalls₁ hdecode₂ hphase₁ .hold (.inr (.inl rfl))
    obtain ⟨t₃, hstep₃, hexit, hphase₃, hcalls₃⟩ := step_of_resetCall hcalls₂ hdecode₃ hphase₂ .exit (.inr (.inr rfl))
    have hpower : AtPowerOn t₁ := exec_rstEnter_atPowerOn henter
    have hheld : AtReset t₂ := exec_rstHold_atReset hhold hpower
    have hreset : AtReset t₃ := exec_rstExit_atReset hexit hheld
    have hcfg : t₃.cfg = s.cfg := (step_cfg hstep₃).trans ((step_cfg hstep₂).trans (step_cfg hstep₁))
    rw [← hcfg]
    exact ⟨t₁, t₂, t₃, hstep₁, hstep₂, hstep₃, hphase₃, hcalls₃, exec_rstExit_lineCurrent hexit,
      (atReset_iff_table t₃).2 hreset⟩

/-! Post-load (R235, R236): the words a record gives the registers, and the records it refuses. -/

theorem fileWords_getElem? (f : RegFile) (q : Reg) : (fileWords f)[regIndex q]? = some (fileGet f q) := by
  cases q <;> rfl

/-- A post-load of a record that gives the registers `f`. -/
theorem exec_postload_of_regs {s : State} {r : SnapshotRecord} {f : RegFile} (hrecord : s.record = some r)
    (hregs : recordRegs s.cfg r = some f) :
    ∃ t, exec .postload s = .next t ∧ (∀ q, reg t q = fileGet f q) ∧ Redriven [] s t ∧ t.answer = .nothing ∧
      RestKept s t :=
  ⟨_, (exec_postload_next s _).2 ⟨r, f, hrecord, hregs, rfl⟩, fun _ => rfl, ⟨by simp, updateIRQ_lineCurrent _⟩, rfl,
    rfl, rfl, rfl, rfl⟩

/-- Settles O53: a record of the right format gives the register file whose words it holds. -/
theorem postloadTakesTheRecordVerbatim : Obligations.PostloadTakesTheRecordVerbatim := by
  refine ⟨rfl, fun s r hrecord hversion hlength => ?_⟩
  obtain ⟨f, hregs⟩ := (recordRegs_isSome_iff s.cfg r).2 ⟨hversion, hlength⟩
  obtain ⟨-, hwords⟩ := (recordRegs_spec s.cfg r f).1 hregs
  obtain ⟨t, h, hreg, hrest⟩ := exec_postload_of_regs hrecord hregs
  refine ⟨t, h, fun q => ?_, hrest⟩
  rw [hwords, fileWords_getElem?, hreg]

/-- Settles O55: the words of a save are the registers of the saved state. -/
theorem savedSnapshotRestoresTheRegisters : Obligations.SavedSnapshotRestoresTheRegisters := by
  intro s u hversion
  have hregs : recordRegs u.cfg (saveSnapshot s) = some s.regs :=
    (recordRegs_spec _ _ _).2 ⟨hversion.symm, rfl⟩
  obtain ⟨t, h, hreg, ⟨htrace, hcurrent⟩, -, hcfg, -⟩ :=
    exec_postload_of_regs (s := { u with record := some (saveSnapshot s) }) rfl hregs
  exact ⟨t, h, hreg, hcfg, by simpa using htrace, hcurrent⟩

/-- Settles O54: a record of another format gives no register file. -/
theorem postloadRefusesAnotherFormat : Obligations.PostloadRefusesAnotherFormat := by
  refine fun s => ⟨fun hnone => ?_, fun r hrecord hformat => ?_⟩
  · change execPostload s = _
    simp [execPostload, hnone]
  · have hregs : recordRegs s.cfg r = none := by
      rw [Option.eq_none_iff_forall_ne_some]
      intro f hf
      obtain ⟨hversion, hlength⟩ := (recordRegs_isSome_iff s.cfg r).1 ⟨f, hf⟩
      exact hformat.elim (absurd hversion) (absurd hlength)
    change execPostload s = _
    simp [execPostload, hrecord, hregs]

end Sys2Proof.Machine
